-- ==== Sys2Proof/Word.lean ====
section
/-! DEFINITION. The block's word types and its two fixed shapes, the 2×2 matrix and the pair (00_scope.md R6, R7, R9). -/

namespace Sys2Proof

/-- `XLEN` = 32: every register and both data paths of the port (R7). -/
abbrev Word := BitVec 32

/-- `TWW` = 37: `{we, addr[3:0], wdata[31:0]}` (R51). -/
abbrev TransactionWord := BitVec 37

/-- A 2×2 matrix as four named fields, row `i`, column `j` in `m<i><j>` (R6, R15; the source's "fixed-size value type"). -/
structure Mat2 (α : Type) where
  m00 : α
  m01 : α
  m10 : α
  m11 : α
deriving DecidableEq, Repr

/-- A pair: one cipher block, `x0` the first component (R6, R16). -/
structure Vec2 (α : Type) where
  x0 : α
  x1 : α
deriving DecidableEq, Repr

end Sys2Proof
end

