-- ==== Sys2Proof/Syntax.lean ====
section
/-! DEFINITION. The register names and the sixteen instructions (20_memory.md R35, 30_encoding.md R58). -/

namespace Sys2Proof

/-- The sixteen names of the register map (R35).  An index in {0, 1} is the bit that encodes it: `false` is 0. -/
inductive Reg where
  | K (i j : Bool)
  | V (j : Bool)
  | C (j : Bool)
  | INV (i j : Bool)
  | DET
  | DINV
  | STATUS
  | CMD
deriving DecidableEq, Repr

/-- One constructor per row of the opcode table (R58).  The word of an ignored `wdata` is no operand (R54, R93 to R96). -/
inductive Instr where
  /-- `RD` (R90). -/
  | rd (a : Reg)
  /-- `WR.K` (R91). -/
  | wrK (i j : Bool) (w : Word)
  /-- `WR.V` (R92). -/
  | wrV (j : Bool) (w : Word)
  /-- `WR.C` (R93). -/
  | wrC (j : Bool)
  /-- `WR.I` (R94). -/
  | wrI (i j : Bool)
  /-- `WR.D` (R95): `DET` for `false`, `DINV` for `true`. -/
  | wrD (j : Bool)
  /-- `WR.STATUS` (R96). -/
  | wrStatus
  /-- `NOP` (R97). -/
  | nop
  /-- `ENC` (R73). -/
  | enc
  /-- `DET` (R76). -/
  | det
  /-- `INVS` (R80). -/
  | invs
  /-- `MINV` (R83). -/
  | minv
  /-- `INVK` (R85). -/
  | invk
  /-- `DEC` (R87). -/
  | dec
  /-- `CLR` (R98). -/
  | clr
  /-- `ILLEGAL`: a write to `CMD` of a word that is no command word (R59, R60). -/
  | illegal (w : Word)
deriving DecidableEq, Repr

end Sys2Proof
end

