-- ==== Sys2Proof/Decode.lean ====
section
/-! DEFINITION. From a transaction word to its instruction and back (30_encoding.md). -/

namespace Sys2Proof

/-! ## Fields (R51 to R54) -/

/-- `TW[36]` (R52). -/
def weOf (t : TransactionWord) : Bool := t.getLsbD 36

/-- `TW[35:32]` (R53). -/
def addrOf (t : TransactionWord) : BitVec 4 := t.extractLsb' 32 4

/-- `TW[31:0]` (R54). -/
def wdataOf (t : TransactionWord) : Word := t.extractLsb' 0 32

/-- The register an index selects, by the bits `addr[3]` … `addr[0]` (R53). -/
def regOfIndex (a : BitVec 4) : Reg :=
  match a.getLsbD 3, a.getLsbD 2, a.getLsbD 1, a.getLsbD 0 with
  | false, false, i, j => .K i j
  | false, true, false, j => .V j
  | false, true, true, j => .C j
  | true, false, i, j => .INV i j
  | true, true, false, false => .DET
  | true, true, false, true => .DINV
  | true, true, true, false => .STATUS
  | true, true, true, true => .CMD

/-! ## Decoding (R55, R58 to R61, R64) -/

/-- A write to `CMD`: bits 31:8 must be 0 and bits 7:0 one of the eight opcodes (R55, R58 to R60). -/
def decodeCommand (w : Word) : Instr :=
  if w.extractLsb' 8 24 ≠ 0 then .illegal w
  else
    match (w.extractLsb' 0 8).toNat with
    | 0 => .nop
    | 1 => .enc
    | 2 => .det
    | 3 => .invs
    | 4 => .minv
    | 5 => .invk
    | 6 => .dec
    | 7 => .clr
    | _ => .illegal w

/-- A write of `w` to register `a` (R64). -/
def decodeWrite (a : Reg) (w : Word) : Instr :=
  match a with
  | .K i j => .wrK i j w
  | .V j => .wrV j w
  | .C j => .wrC j
  | .INV i j => .wrI i j
  | .DET => .wrD false
  | .DINV => .wrD true
  | .STATUS => .wrStatus
  | .CMD => decodeCommand w

/-- The decoding procedure (R64): every one of the 2^37 transaction words has exactly one meaning (R61). -/
def decode (t : TransactionWord) : Instr :=
  if weOf t then decodeWrite (regOfIndex (addrOf t)) (wdataOf t)
  else .rd (regOfIndex (addrOf t))

/-- Why a written number names no transaction. -/
inductive DecodeError where
  /-- A bit above bit 36 is set: the written form has "the top three always 0" (R51). -/
  | topBitsNotZero
deriving DecidableEq, Repr

/-- A transaction word from the number it is written as (R51: ten hexadecimal digits, the top three bits 0). -/
def readTransactionWord (w : Nat) : Except DecodeError TransactionWord :=
  if w < 2 ^ 37 then .ok (BitVec.ofNat 37 w) else .error .topBitsNotZero

/-- The instruction of a row of the opcode table.  A transaction is one word of 37 bits, so no operand word follows and
`nbits` has nothing left to say. -/
def decodeTableWord (_nbits w : Nat) : Option Instr :=
  match readTransactionWord w with
  | .ok t => some (decode t)
  | .error _ => none

/-! ## Encoding -/

/-- `{we, addr, wdata}` (R51). -/
def transactionWord (we : Bool) (addr : BitVec 4) (wdata : Word) : TransactionWord :=
  BitVec.ofBool we ++ addr ++ wdata

/-- The index of a register (R35's table and its formulas below it). -/
def indexOf : Reg → BitVec 4
  | .K i j => BitVec.ofNat 4 (2 * i.toNat + j.toNat)
  | .V j => BitVec.ofNat 4 (4 + j.toNat)
  | .C j => BitVec.ofNat 4 (6 + j.toNat)
  | .INV i j => BitVec.ofNat 4 (8 + 2 * i.toNat + j.toNat)
  | .DET => 12
  | .DINV => 13
  | .STATUS => 14
  | .CMD => 15

/-- A host read in its canonical form, `wdata` = 0 (R54). -/
def readOf (a : Reg) : TransactionWord := transactionWord false (indexOf a) 0

/-- A host write (R52). -/
def writeOf (a : Reg) (w : Word) : TransactionWord := transactionWord true (indexOf a) w

/-- The transaction word of an instruction (R58), an ignored `wdata` being 0. -/
def encode : Instr → TransactionWord
  | .rd a => readOf a
  | .wrK i j w => writeOf (.K i j) w
  | .wrV j w => writeOf (.V j) w
  | .wrC j => writeOf (.C j) 0
  | .wrI i j => writeOf (.INV i j) 0
  | .wrD j => writeOf (if j then .DINV else .DET) 0
  | .wrStatus => writeOf .STATUS 0
  | .nop => writeOf .CMD 0
  | .enc => writeOf .CMD 1
  | .det => writeOf .CMD 2
  | .invs => writeOf .CMD 3
  | .minv => writeOf .CMD 4
  | .invk => writeOf .CMD 5
  | .dec => writeOf .CMD 6
  | .clr => writeOf .CMD 7
  | .illegal w => writeOf .CMD w

/-! ## The opcode table as data (R58) -/

/-- One row: `t` selects it when `t AND mask = fixed` (R58). -/
structure OpcodeRow where
  mnemonic : String
  fixed : TransactionWord
  mask : TransactionWord
deriving DecidableEq, Repr

/-- Whether a transaction word selects a row (R58). -/
def OpcodeRow.selects (r : OpcodeRow) (t : TransactionWord) : Bool := t &&& r.mask = r.fixed

/-- The row of an instruction: the numbers of spec/opcode_table.json. -/
def Instr.row : Instr → OpcodeRow
  | .rd _ => ⟨"RD", 0x0000000000, 0x1000000000⟩
  | .wrK _ _ _ => ⟨"WR.K", 0x1000000000, 0x1C00000000⟩
  | .wrV _ _ => ⟨"WR.V", 0x1400000000, 0x1E00000000⟩
  | .wrC _ => ⟨"WR.C", 0x1600000000, 0x1E00000000⟩
  | .wrI _ _ => ⟨"WR.I", 0x1800000000, 0x1C00000000⟩
  | .wrD _ => ⟨"WR.D", 0x1C00000000, 0x1E00000000⟩
  | .wrStatus => ⟨"WR.STATUS", 0x1E00000000, 0x1F00000000⟩
  | .nop => ⟨"NOP", 0x1F00000000, 0x1FFFFFFFFF⟩
  | .enc => ⟨"ENC", 0x1F00000001, 0x1FFFFFFFFF⟩
  | .det => ⟨"DET", 0x1F00000002, 0x1FFFFFFFFF⟩
  | .invs => ⟨"INVS", 0x1F00000003, 0x1FFFFFFFFF⟩
  | .minv => ⟨"MINV", 0x1F00000004, 0x1FFFFFFFFF⟩
  | .invk => ⟨"INVK", 0x1F00000005, 0x1FFFFFFFFF⟩
  | .dec => ⟨"DEC", 0x1F00000006, 0x1FFFFFFFFF⟩
  | .clr => ⟨"CLR", 0x1F00000007, 0x1FFFFFFFFF⟩
  | .illegal _ => ⟨"ILLEGAL", 0x1F00000000, 0x1F00000000⟩

/-- The fifteen named rows, in the table's order; `ILLEGAL` is the default, tried last (R58). -/
def namedRows : List OpcodeRow :=
  [Instr.row (.rd .CMD), Instr.row (.wrK false false 0), Instr.row (.wrV false 0), Instr.row (.wrC false),
    Instr.row (.wrI false false), Instr.row (.wrD false), Instr.row .wrStatus, Instr.row .nop, Instr.row .enc,
    Instr.row .det, Instr.row .invs, Instr.row .minv, Instr.row .invk, Instr.row .dec, Instr.row .clr]

end Sys2Proof
end

