-- ==== Sys2Proof/Machine/State.lean ====
section
/-! DEFINITION. The state of the block, the host's events, the exceptions, and the state after reset (10_state.md). -/

namespace Sys2Proof.Machine

/-- The exceptions (R111).  Each is recorded in `STATUS.CAUSE` by a next state; none stops the machine (R118). -/
inductive Exc where
  | notInvertible
  | illegalCommand
  | operandRange
  | sequenceError
  | illegalAccess
deriving DecidableEq, Repr

/-- What the world outside can do to the block, at the level of completed transactions (R13, R127; log 1). -/
inductive Event where
  /-- The host's next transaction (R38). -/
  | transaction (t : TransactionWord)
  /-- `rst` (R126): "a reset is a distinct event in the sequence" (R127). -/
  | reset
deriving DecidableEq, Repr

/-- The reasons for which the model would stop with a fault.  There are none: every transaction completes (R38, R61), and an
exception is a next state (R118).  The type has no constructor, so that no step can answer a fault (log 8; safe). -/
inductive Fault where
deriving DecidableEq, Repr

/-- The reasons for which the model has no meaning for an instruction. -/
inductive Refusal where
  /-- Raised by an arm of `exec` whose instruction is not modelled yet (safe).  No arm raises it. -/
  | notModelled (mnemonic : String)
deriving DecidableEq, Repr

/-- The whole architectural state (R14: "the following record and nothing else"), then the port at the level of completed
transactions (log 1, 2). -/
structure State where
  /-- The key matrix as written, signed (R15). -/
  K : Mat2 Word
  /-- The input pair as written, unsigned (R16). -/
  V : Vec2 Word
  /-- The output pair (R18). -/
  C : Vec2 Word
  /-- The inverse matrix (R19). -/
  INV : Mat2 Word
  /-- The determinant mod 26 (R20). -/
  DET : Word
  /-- The inverse of the determinant mod 26 (R20). -/
  DINV : Word
  /-- `STATUS[0]` (R22). -/
  CVAL : Bool
  /-- `STATUS[1]` (R23). -/
  DVAL : Bool
  /-- `STATUS[2]` (R24). -/
  NVAL : Bool
  /-- `STATUS[3]` (R25). -/
  MVAL : Bool
  /-- `STATUS[4]` (R26). -/
  NI : Bool
  /-- `STATUS[11:8]` (R28). -/
  CAUSE : BitVec 4
  /-- The host's events that the block has not accepted yet, the next one first (R13, R43; log 1). -/
  requests : List Event
  /-- `rsp_rdata` of the most recent transaction: the word read, or 0 for a write (R37); none since reset (log 2). -/
  response : Option Word
deriving DecidableEq, Repr

/-- After reset every piece of state of R14 is zero (R30, R125); no event waits and no response has been given. -/
def State.reset : State where
  K := ⟨0, 0, 0, 0⟩
  V := ⟨0, 0⟩
  C := ⟨0, 0⟩
  INV := ⟨0, 0, 0, 0⟩
  DET := 0
  DINV := 0
  CVAL := false
  DVAL := false
  NVAL := false
  MVAL := false
  NI := false
  CAUSE := 0
  requests := []
  response := none

end Sys2Proof.Machine
end

