-- ==== Sys2Proof/Machine/Flags.lean ====
section
/-! DEFINITION. The `STATUS` word and the flag updates (10_state.md R21 to R28, R32). -/

namespace Sys2Proof.Machine

/-- The word a read of `STATUS` returns:
`zext_32(CVAL + 2·DVAL + 4·NVAL + 8·MVAL + 16·NI + 256·CAUSE)` (R21). -/
def statusWord (s : State) : Word :=
  BitVec.ofNat 32 (s.CVAL.toNat + 2 * s.DVAL.toNat + 4 * s.NVAL.toNat + 8 * s.MVAL.toNat + 16 * s.NI.toNat +
    256 * s.CAUSE.toNat)

/-- All five flags to 0: a key write, `CLR` (R91, R98). -/
def clearFlags (s : State) : State :=
  { s with CVAL := false, DVAL := false, NVAL := false, MVAL := false, NI := false }

/-- `CVAL` to 0: an input write (R92). -/
def clearCval (s : State) : State := { s with CVAL := false }

/-- What a failed search writes: `NVAL <- 0`, `NI <- 1` (R80, R85). -/
def markNotInvertible (s : State) : State := { s with NVAL := false, NI := true }

end Sys2Proof.Machine
end

