-- ==== Sys2Proof/Config.lean ====
section
/-! DEFINITION. The constants of the hardware and its one OPEN parameter that the clock-edge view reads (00_scope.md R6, R8). -/

namespace Sys2Proof.Config

/-- `M` = 26 (R6). -/
abbrev modulus : Int := 26

/-- OPEN (R8): by how many cycles `LAT(t)` exceeds its least value 1.  Nothing is known of it. -/
opaque extraCycles : TransactionWord → Nat

/-- `LAT(t)`: cycles from the acceptance of `t` to its response, at least 1 and finite (R8, R38, R136). -/
def latency (t : TransactionWord) : Nat := extraCycles t + 1

end Sys2Proof.Config
end

