-- ==== Sys2Proof/Machine/Operands.lean ====
section
/-! DEFINITION. Reading words as integers, the residue function, the reduced key, the range check (00_scope.md R9,
40_arithmetic.md). -/

namespace Sys2Proof.Machine

/-- `sint(w)`: two's complement value (R9). -/
def sint (w : Word) : Int := w.toInt

/-- `uint(w)`: unsigned value (R9). -/
def uint (w : Word) : Int := (w.toNat : Int)

/-- `zext_32(v)`: the word of a non-negative integer below 2^32 (R9). -/
def zext32 (v : Int) : Word := BitVec.ofInt 32 v

/-- `emod(x, 26)`: the residue in 0..25, also for negative `x` (R65). -/
def emod (x : Int) : Int := x % Config.modulus

/-- Entry `[i][j]`. -/
def getEntry {α : Type} (A : Mat2 α) (i j : Bool) : α :=
  match i, j with
  | false, false => A.m00
  | false, true => A.m01
  | true, false => A.m10
  | true, true => A.m11

/-- The matrix with entry `[i][j]` replaced: no other entry changes (R17). -/
def setEntry {α : Type} (A : Mat2 α) (i j : Bool) (x : α) : Mat2 α :=
  match i, j with
  | false, false => { A with m00 := x }
  | false, true => { A with m01 := x }
  | true, false => { A with m10 := x }
  | true, true => { A with m11 := x }

/-- Component `[j]`. -/
def getComponent {α : Type} (v : Vec2 α) (j : Bool) : α :=
  match j with
  | false => v.x0
  | true => v.x1

/-- The pair with component `[j]` replaced (R17). -/
def setComponent {α : Type} (v : Vec2 α) (j : Bool) (x : α) : Vec2 α :=
  match j with
  | false => { v with x0 := x }
  | true => { v with x1 := x }

/-- A function applied to all four entries. -/
def mapMat {α β : Type} (f : α → β) (A : Mat2 α) : Mat2 β := ⟨f A.m00, f A.m01, f A.m10, f A.m11⟩

/-- A function applied to both components. -/
def mapVec {α β : Type} (f : α → β) (v : Vec2 α) : Vec2 β := ⟨f v.x0, f v.x1⟩

/-- One reduced key entry: `emod(sint(K[i][j]), 26)` (R66). -/
def reducedEntry (w : Word) : Int := emod (sint w)

/-- `kr`: the reduced key matrix (R66). -/
def kr (K : Mat2 Word) : Mat2 Int := mapMat reducedEntry K

/-- `isres(w)`: `uint(w) < 26` (R71). -/
def isres (w : Word) : Bool := uint w < Config.modulus

/-- Both components of the input pair are residues: the check of `ENC` and `DEC` (R71, R114). -/
def inRange (v : Vec2 Word) : Bool := isres v.x0 && isres v.x1

end Sys2Proof.Machine
end

