-- ==== Sys2Proof/Machine/Units.lean ====
section
/-! DEFINITION. The three arithmetic units and the inverse-matrix construction, as functions of integers (00_scope.md R2;
41 to 44).  Products, sums and differences are exact; `emod` comes last (40_arithmetic.md R67). -/

namespace Sys2Proof.Machine

/-- `mvmul(A, v)`: the unit `modular_matrix_multiplier` (R72). -/
def mvmul (A : Mat2 Int) (v : Vec2 Int) : Vec2 Int :=
  ⟨emod (A.m00 * v.x0 + A.m01 * v.x1), emod (A.m10 * v.x0 + A.m11 * v.x1)⟩

/-- `detf(K)`: the unit `determinant_mod_26_computer` (R75). -/
def detf (K : Mat2 Word) : Int := emod ((kr K).m00 * (kr K).m11 - (kr K).m01 * (kr K).m10)

/-- The candidates of the search, in ascending order: exactly 1 to 25 (R78). -/
def candidates : List Int := (List.range' 1 25).map Int.ofNat

/-- `invsearch(d)`: the unit `modular_inverse_search`, the first `i` with `emod(d·i, 26) = 1`, or none (R78). -/
def invsearch (d : Int) : Option Int := candidates.find? fun i => emod (d * i) = 1

/-- `adjinv(K, q)`: the adjugate of the reduced key times `q` (R82). -/
def adjinv (K : Mat2 Word) (q : Int) : Mat2 Int :=
  ⟨emod (q * (kr K).m11), emod (q * emod (-(kr K).m01)),
   emod (q * emod (-(kr K).m10)), emod (q * (kr K).m00)⟩

/-- The two results of `invkey` (R84). -/
inductive KeyInverse where
  | inverse (d q : Int) (A : Mat2 Int)
  | notInvertible (d : Int)
deriving DecidableEq, Repr

/-- `invkey(K)`: the source's `invertKeyMatrix` as one function (R84). -/
def invkey (K : Mat2 Word) : KeyInverse :=
  match invsearch (detf K) with
  | some q => .inverse (detf K) q (adjinv K q)
  | none => .notInvertible (detf K)

end Sys2Proof.Machine
end

