-- ==== Sys2Proof/Machine/Ops.lean ====
section
/-! DEFINITION. The shared operations over the registers, the port and the recorded cause. -/

namespace Sys2Proof.Machine

/-! ## Exceptions (60_exceptions.md) -/

/-- The 4-bit code of an exception (R111). -/
def Exc.code : Exc → BitVec 4
  | .notInvertible => 1
  | .illegalCommand => 2
  | .operandRange => 3
  | .sequenceError => 4
  | .illegalAccess => 5

/-- `raise E`, the whole of taking an exception: `STATUS.CAUSE` takes the code, nothing else is written (R118). -/
def raise (e : Exc) (s : State) : State := { s with CAUSE := e.code }

/-- There is no return from an exception; the host's acknowledgement clears the recorded cause (R122). -/
def acknowledge (s : State) : State := { s with CAUSE := 0 }

/-- The exception of a command whose prerequisite flag is 0: `NotInvertible` when the key is known not to be invertible,
else `SequenceError` (R112 (b), R115, R119). -/
def missingInverse (s : State) : Exc := if s.NI then .notInvertible else .sequenceError

/-! ## Registers -/

/-- `RegRead(a)` (R90). -/
def regRead (a : Reg) (s : State) : Word :=
  match a with
  | .K i j => getEntry s.K i j
  | .V j => getComponent s.V j
  | .C j => getComponent s.C j
  | .INV i j => getEntry s.INV i j
  | .DET => s.DET
  | .DINV => s.DINV
  | .STATUS => statusWord s
  | .CMD => 0

/-- `K[i][j] <- w`, as written, not reduced (R15, R91). -/
def writeKey (i j : Bool) (w : Word) (s : State) : State := { s with K := setEntry s.K i j w }

/-- `V[j] <- w`, as written, not checked (R16, R92). -/
def writeInput (j : Bool) (w : Word) (s : State) : State := { s with V := setComponent s.V j w }

/-- The output pair and its flag: the end of `ENC` and `DEC` (R73, R87). -/
def writeOutput (c : Vec2 Int) (s : State) : State := { s with C := mapVec zext32 c, CVAL := true }

/-- `DET` and its flag (R76, R85). -/
def writeDet (d : Int) (s : State) : State := { s with DET := zext32 d, DVAL := true }

/-- A found inverse: `DINV`, `NVAL <- 1`, `NI <- 0` (R80, R85). -/
def writeDinv (q : Int) (s : State) : State := { s with DINV := zext32 q, NVAL := true, NI := false }

/-- The inverse matrix and its flag (R83, R85). -/
def writeInverse (A : Mat2 Int) (s : State) : State := { s with INV := mapMat zext32 A, MVAL := true }

/-- All eight result registers to 0 (R98). -/
def clearResults (s : State) : State :=
  { s with C := ⟨0, 0⟩, INV := ⟨0, 0, 0, 0⟩, DET := 0, DINV := 0 }

/-! ## The port -/

/-- The host presents an event to be taken next. -/
def present (e : Event) (s : State) : State := { s with requests := e :: s.requests }

/-- Acceptance of the next transaction: it leaves the list, and the response is that of a write, 0, until a read says otherwise
(R37, R38). -/
def accept (rest : List Event) (s : State) : State := { s with requests := rest, response := some 0 }

/-- The response of a read (R37). -/
def respond (w : Word) (s : State) : State := { s with response := some w }

/-- A reset event "maps every state to the reset state" (R127); what the host does afterwards is still to come. -/
def applyReset (rest : List Event) (_s : State) : State := { State.reset with requests := rest }

end Sys2Proof.Machine
end

