-- ==== Sys2Proof/Machine/Access.lean ====
section
/-! DEFINITION. Register access: `RD` and the six `WR` instructions (46_register_access_and_control.md R90 to R96). -/

namespace Sys2Proof.Machine

/-- `RD` (R90): the response is `RegRead(a)`; a read changes no register and no flag. -/
def execRd (a : Reg) (s : State) : Host.Outcome State Fault Refusal := .next (respond (regRead a s) s)

/-- `WR.K` (R91): the entry is stored and the five flags drop, whatever the word. -/
def execWrK (i j : Bool) (w : Word) (s : State) : Host.Outcome State Fault Refusal :=
  .next (clearFlags (writeKey i j w s))

/-- `WR.V` (R92): the component is stored and `CVAL` drops. -/
def execWrV (j : Bool) (w : Word) (s : State) : Host.Outcome State Fault Refusal :=
  .next (clearCval (writeInput j w s))

/-- `WR.C` (R93). -/
def execWrC (_j : Bool) (s : State) : Host.Outcome State Fault Refusal := .next (raise .illegalAccess s)

/-- `WR.I` (R94). -/
def execWrI (_i _j : Bool) (s : State) : Host.Outcome State Fault Refusal := .next (raise .illegalAccess s)

/-- `WR.D` (R95). -/
def execWrD (_j : Bool) (s : State) : Host.Outcome State Fault Refusal := .next (raise .illegalAccess s)

/-- `WR.STATUS` (R96). -/
def execWrStatus (s : State) : Host.Outcome State Fault Refusal := .next (raise .illegalAccess s)

end Sys2Proof.Machine
end

