-- ==== Sys2Proof/Machine/Control.lean ====
section
/-! DEFINITION. `NOP`, `CLR` and the illegal command (46_register_access_and_control.md R97, R98; 60_exceptions.md R113). -/

namespace Sys2Proof.Machine

/-- `NOP` (R97). -/
def execNop (s : State) : Host.Outcome State Fault Refusal := .next s

/-- `CLR` (R98): results, flags and cause to 0; the operands stay. -/
def execClr (s : State) : Host.Outcome State Fault Refusal := .next (acknowledge (clearFlags (clearResults s)))

/-- An illegal command word (R59, R60, R113): nothing is executed and the word is not recorded. -/
def execIllegal (_w : Word) (s : State) : Host.Outcome State Fault Refusal := .next (raise .illegalCommand s)

end Sys2Proof.Machine
end

