-- ==== Sys2Proof/Machine/Inverter.lean ====
section
/-! DEFINITION. The key inverter: `DET`, `INVS`, `MINV` and the fused `INVK` (42_determinant.md R76, 43_inverse_search.md R80,
44_inverse_matrix.md R83, R85). -/

namespace Sys2Proof.Machine

/-- `DET` (R76): always succeeds. -/
def execDet (s : State) : Host.Outcome State Fault Refusal := .next (writeDet (detf s.K) s)

/-- `INVS` (R80): trusts `DET` under `DVAL`; a failed search writes `NVAL`, `NI` before it raises. -/
def execInvs (s : State) : Host.Outcome State Fault Refusal :=
  if s.DVAL then
    match invsearch (uint s.DET) with
    | some q => .next (writeDinv q s)
    | none => .next (raise .notInvertible (markNotInvertible s))
  else .next (raise .sequenceError s)

/-- `MINV` (R83): reads `K` afresh. -/
def execMinv (s : State) : Host.Outcome State Fault Refusal :=
  if s.NVAL then .next (writeInverse (adjinv s.K (uint s.DINV)) s)
  else .next (raise (missingInverse s) s)

/-- `INVK` (R85): the three stages in one command; a failure has written `DET`, `DVAL`, `NVAL`, `NI`. -/
def execInvk (s : State) : Host.Outcome State Fault Refusal :=
  match invkey s.K with
  | .inverse d q A => .next (writeInverse A (writeDinv q (writeDet d s)))
  | .notInvertible d => .next (raise .notInvertible (markNotInvertible (writeDet d s)))

end Sys2Proof.Machine
end

