-- ==== Sys2Proof/Machine/Multiplier.lean ====
section
/-! DEFINITION. The two block multiplies, `ENC` and `DEC` (41_block_encrypt.md R73, 45_block_decrypt.md R87). -/

namespace Sys2Proof.Machine

/-- `ENC` (R73): no prerequisite; `OperandRange` when a component of `V` is no residue. -/
def execEnc (s : State) : Host.Outcome State Fault Refusal :=
  if inRange s.V then .next (writeOutput (mvmul (kr s.K) (mapVec uint s.V)) s)
  else .next (raise .operandRange s)

/-- `DEC` (R87): the prerequisite comes before the range check (R119). -/
def execDec (s : State) : Host.Outcome State Fault Refusal :=
  if s.MVAL then
    if inRange s.V then .next (writeOutput (mvmul (mapMat uint s.INV) (mapVec uint s.V)) s)
    else .next (raise .operandRange s)
  else .next (raise (missingInverse s) s)

end Sys2Proof.Machine
end

