-- ==== Sys2Proof/Machine/Dispatch.lean ====
section
/-! DEFINITION. One arm per instruction. -/

namespace Sys2Proof.Machine

def exec (i : Instr) (s : State) : Host.Outcome State Fault Refusal :=
  match i with
  | .rd a => Sys2Proof.Machine.execRd a s
  | .wrK a b w => Sys2Proof.Machine.execWrK a b w s
  | .wrV b w => Sys2Proof.Machine.execWrV b w s
  | .wrC b => Sys2Proof.Machine.execWrC b s
  | .wrI a b => Sys2Proof.Machine.execWrI a b s
  | .wrD b => Sys2Proof.Machine.execWrD b s
  | .wrStatus => Sys2Proof.Machine.execWrStatus s
  | .nop => Sys2Proof.Machine.execNop s
  | .enc => Sys2Proof.Machine.execEnc s
  | .det => Sys2Proof.Machine.execDet s
  | .invs => Sys2Proof.Machine.execInvs s
  | .minv => Sys2Proof.Machine.execMinv s
  | .invk => Sys2Proof.Machine.execInvk s
  | .dec => Sys2Proof.Machine.execDec s
  | .clr => Sys2Proof.Machine.execClr s
  | .illegal w => Sys2Proof.Machine.execIllegal w s

end Sys2Proof.Machine
end

