-- ==== Sys2Proof/Machine/Step.lean ====
section
/-! DEFINITION. One step: the next event of the host, performed wholly (00_scope.md R13, 20_memory.md R38 to R41). -/

namespace Sys2Proof.Machine

/-- With no event the block is idle and "no state changes" (R12).  A transaction is accepted, decoded and performed (R38, R39);
a reset event maps every state to the reset state (R127). -/
def step (s : State) : Host.Outcome State Fault Refusal :=
  match s.requests with
  | [] => .next s
  | .reset :: rest => .next (applyReset rest s)
  | .transaction t :: rest => exec (decode t) (accept rest s)

/-- The host presents the transaction of a table word as its next one (log 4).  A number that is no transaction word cannot be
presented. -/
def State.withFetchWord (s : State) (_nbits w : Nat) : State :=
  match readTransactionWord w with
  | .ok t => present (.transaction t) s
  | .error _ => s

end Sys2Proof.Machine
end

