-- ==== Sys2Proof/Machine/Port.lean ====
section
/-! DEFINITION. The port at the level of clock edges (20_memory.md R37, R38; 70_reset_and_hazards.md R126, R127): a second view of
the same block, which performs each transaction by the step of Step.lean.  The spec's own level is that of completed transactions
(R13); nothing below it is observable but acceptance, response and reset. -/

namespace Sys2Proof.Machine

/-- The input signals as sampled at one rising edge of `clk` (R37). -/
structure PortIn where
  rst : Bool
  reqValid : Bool
  reqWe : Bool
  reqAddr : BitVec 4
  reqWdata : Word
deriving DecidableEq, Repr

/-- The output signals (R37).  `rsp` is `rsp_rdata` while `rsp_valid` = 1 and none while `rsp_valid` = 0, when `rsp_rdata` means
nothing (log 11). -/
structure PortOut where
  reqReady : Bool
  rsp : Option Word
deriving DecidableEq, Repr

/-- Where the port is in its protocol (R38, R126; log 9). -/
inductive Phase where
  /-- The last edge had `rst` = 1 (R126). -/
  | underReset
  /-- No transaction is outstanding. -/
  | idle
  /-- One transaction is accepted; `left` more edges pass before the one that starts its response cycle. -/
  | busy (t : TransactionWord) (left : Nat)
  /-- The one cycle in which `rsp_valid` = 1, unless `rst` = 1 in it: then no response is given, and the transaction is abandoned
  (R126, R127). -/
  | responding (t : TransactionWord)
deriving DecidableEq, Repr

/-- The block and its port between two clock edges. -/
structure Clocked where
  block : State
  phase : Phase
deriving DecidableEq, Repr

/-- What a transaction answers in a state: the response its step leaves (R37). -/
def responseOf (t : TransactionWord) (s : State) : Option Word :=
  match step (present (.transaction t) s) with
  | .next u => u.response
  | .fault _ => none
  | .refused _ => none

/-- The outputs while `rst` has the given value: both are held at 0 while `rst` = 1 (R126), and `req_ready` is 0 from acceptance
to the response (R38). -/
def portOut (rst : Bool) (c : Clocked) : PortOut :=
  if rst then ⟨false, none⟩
  else
    match c.phase with
    | .underReset => ⟨false, none⟩
    | .idle => ⟨true, none⟩
    | .busy _ _ => ⟨false, none⟩
    | .responding t => ⟨false, responseOf t c.block⟩

/-- Acceptance: `rst = 0`, `req_valid = 1` and `req_ready = 1` at the edge (R38). -/
def acceptsAt (i : PortIn) (c : Clocked) : Bool := !i.rst && i.reqValid && (portOut i.rst c).reqReady

/-- The transaction word the signals name (R51). -/
def PortIn.word (i : PortIn) : TransactionWord := transactionWord i.reqWe i.reqAddr i.reqWdata

/-- The event that takes effect at an edge: reset (R126), or the transaction whose response the cycle before the edge has given
(log 9).  A transaction is performed only with its response, so that one abandoned by a reset is no event (R127). -/
def eventAt (i : PortIn) (c : Clocked) : Option Event :=
  if i.rst then some .reset
  else
    match c.phase with
    | .underReset => none
    | .idle => none
    | .busy _ _ => none
    | .responding t => some (.transaction t)

/-- The phase after an edge. -/
def nextPhase (i : PortIn) (c : Clocked) : Phase :=
  if i.rst then .underReset
  else
    match c.phase with
    | .underReset => .idle
    | .idle => if acceptsAt i c then .busy i.word (Config.extraCycles i.word) else .idle
    | .busy t (n + 1) => .busy t n
    | .busy t 0 => .responding t
    | .responding _ => .idle

/-- One rising edge of `clk`. -/
def edge (i : PortIn) (c : Clocked) : Host.Outcome Clocked Fault Refusal :=
  match eventAt i c with
  | none => .next ⟨c.block, nextPhase i c⟩
  | some e =>
    match step (present e c.block) with
    | .next t => .next ⟨t, nextPhase i c⟩
    | .fault f => .fault f
    | .refused r => .refused r

/-- A sequence of edges. -/
def edges : List PortIn → Clocked → Host.Outcome Clocked Fault Refusal
  | [], c => .next c
  | i :: rest, c =>
    match edge i c with
    | .next d => edges rest d
    | .fault f => .fault f
    | .refused r => .refused r

/-- The events that take effect during a sequence of edges, in order (R13, R43). -/
def eventsOf : List PortIn → Clocked → List Event
  | [], _ => []
  | i :: rest, c =>
    match edge i c with
    | .next d => (eventAt i c).toList ++ eventsOf rest d
    | .fault _ => []
    | .refused _ => []

end Sys2Proof.Machine
end

