-- ==== Sys2Proof/Machine/Software.lean ====
section
/-! DEFINITION. The host's software beside the block (47_host_sequences.md, 30_encoding.md R62, R63): the text form of transactions,
the pseudo-instructions, the letter mapping, `normalize` and the three macros.  It is no part of the hardware (00_scope.md R5): it
only issues transactions and reads their responses. -/

namespace Sys2Proof.Machine

/-! ## Issuing transactions -/

/-- `f` on the next state of an outcome; a fault or a refusal stands. -/
def andThen {α β : Type} (o : Host.Outcome α Fault Refusal) (f : α → Host.Outcome β Fault Refusal) :
    Host.Outcome β Fault Refusal :=
  match o with
  | .next a => f a
  | .fault r => .fault r
  | .refused r => .refused r

/-- The host issues one transaction and waits for its response (R38). -/
def issue (t : TransactionWord) (s : State) : Host.Outcome (State × Word) Fault Refusal :=
  andThen (step (present (.transaction t) s)) fun u => .next (u, u.response.getD 0)

/-- A sequence of transactions, with their responses in order. -/
def issueAll : List TransactionWord → State → Host.Outcome (State × List Word) Fault Refusal
  | [], s => .next (s, [])
  | t :: rest, s => andThen (issue t s) fun r => andThen (issueAll rest r.1) fun q => .next (q.1, r.2 :: q.2)

/-! ## The text form and the pseudo-instructions (R62, R63) -/

/-- One line of the text form (R62). -/
inductive Line where
  | rd (a : Reg)
  | wr (a : Reg) (v : Int)
  | cmd (v : Int)
  | nop
  | enc
  | det
  | invs
  | minv
  | invk
  | dec
  | clr
deriving DecidableEq, Repr

/-- `enc(value)`: two's complement in 32 bits for a negative decimal, else the unsigned word (R62); a value that fits neither is
refused (log 13). -/
def encodeValue (v : Int) : Option Word :=
  if -2147483648 ≤ v ∧ v < 4294967296 then some (BitVec.ofInt 32 v) else none

/-- The transaction word of a line (R62). -/
def assemble : Line → Option TransactionWord
  | .rd a => some (readOf a)
  | .wr a v => (encodeValue v).map (writeOf a)
  | .cmd v => (encodeValue v).map (writeOf .CMD)
  | .nop => some (encode .nop)
  | .enc => some (encode .enc)
  | .det => some (encode .det)
  | .invs => some (encode .invs)
  | .minv => some (encode .minv)
  | .invk => some (encode .invk)
  | .dec => some (encode .dec)
  | .clr => some (encode .clr)

/-- The pseudo-instructions (R63). -/
inductive Pseudo where
  | ldk (a b c d : Int)
  | ldv (p q : Int)
  | rdc
  | rdinv
  | rdst
  | encb (p q : Int)
  | decb (p q : Int)
deriving DecidableEq, Repr

/-- Their expansions (R63). -/
def expand : Pseudo → List Line
  | .ldk a b c d => [.wr (.K false false) a, .wr (.K false true) b, .wr (.K true false) c, .wr (.K true true) d]
  | .ldv p q => [.wr (.V false) p, .wr (.V true) q]
  | .rdc => [.rd (.C false), .rd (.C true)]
  | .rdinv => [.rd (.INV false false), .rd (.INV false true), .rd (.INV true false), .rd (.INV true true)]
  | .rdst => [.rd .STATUS]
  | .encb p q => [.wr (.V false) p, .wr (.V true) q, .enc, .rd .STATUS, .rd (.C false), .rd (.C true)]
  | .decb p q => [.wr (.V false) p, .wr (.V true) q, .dec, .rd .STATUS, .rd (.C false), .rd (.C true)]

/-! ## Letters and `normalize` (R99 to R102) -/

/-- `A` .. `Z`. -/
def isCapital (c : Char) : Bool := 65 ≤ c.toNat && c.toNat ≤ 90

/-- `a` .. `z`. -/
def isSmall (c : Char) : Bool := 97 ≤ c.toNat && c.toNat ≤ 122

/-- `residue = code(letter) − code('A')` (R99). -/
def residueOf (c : Char) : Int := c.toNat - 65

/-- `letter = 'A' + residue` (R99). -/
def letterOf (w : Word) : Char := Char.ofNat (65 + w.toNat)

/-- Upper-casing (R101). -/
def capital (c : Char) : Char := if isSmall c then Char.ofNat (c.toNat - 32) else c

/-- Filtering: only the 52 letters are kept, in order (R100). -/
def lettersOnly (raw : List Char) : List Char := raw.filter fun c => isCapital c || isSmall c

/-- Padding: one `X` when the length is odd (R102). -/
def padEven (t : List Char) : List Char := if t.length % 2 = 1 then t ++ ['X'] else t

/-- `normalize` (R100 to R102). -/
def normalizeText (raw : List Char) : List Char := padEven ((lettersOnly raw).map capital)

/-! ## The macros over texts (R104 to R107) -/

/-- How a macro ends without a result. -/
inductive HostError where
  /-- The source's `NotInvertibleError` (R105, R106). -/
  | notInvertible
  /-- The duty to read `STATUS` found no valid result (R104, H3).  That the macro then ends so, without a text and with the word read,
  is the model's choice (log 13). -/
  | noResult (status : Word)
  /-- An odd last letter has no partner: the host refuses (R109 (a), U4). -/
  | oddLength
  /-- A character outside `A`..`Z` in a text that must be normalised: the host refuses (R109 (b), U5). -/
  | notALetter (c : Char)
deriving DecidableEq, Repr

/-- Which of the two block commands a text macro uses. -/
inductive Direction where
  | encrypting
  | decrypting
deriving DecidableEq, Repr

/-- `enc` (R104) or `dec` (R105). -/
def Direction.command : Direction → TransactionWord
  | .encrypting => encode .enc
  | .decrypting => encode .dec

/-- The error a `STATUS` word without `CVAL` shows: after `dec`, code 1 is `NotInvertibleError` (R105).  R105 names no outcome for
another code, and R104 none for `enc`, whose `require` fails: `noResult` there is the model's choice (log 13). -/
def Direction.errorOf (d : Direction) (status : Word) : HostError :=
  match d with
  | .encrypting => .noResult status
  | .decrypting => if status.extractLsb' 8 4 = Exc.code .notInvertible then .notInvertible else .noResult status

/-- One pair of the loop: write `V`, command, read `STATUS`, and only with `CVAL` = 1 read `C` (R104, H3). -/
def processPair (d : Direction) (p q : Char) (s : State) :
    Host.Outcome (State × Except HostError (Char × Char)) Fault Refusal :=
  andThen (issueAll [writeOf (.V false) (zext32 (residueOf p)), writeOf (.V true) (zext32 (residueOf q)), d.command] s) fun r =>
    andThen (issue (readOf .STATUS) r.1) fun st =>
      if st.2.getLsbD 0 then
        andThen (issue (readOf (.C false)) st.1) fun c0 =>
          andThen (issue (readOf (.C true)) c0.1) fun c1 =>
            .next (c1.1, .ok (letterOf c0.2, letterOf c1.2))
      else .next (st.1, .error (d.errorOf st.2))

/-- Why a text is refused, if it is: its first character that is no capital, else its odd length (R109, U4, U5; log 13). -/
def textError (t : List Char) : Option HostError :=
  match t.find? (fun c => !isCapital c) with
  | some c => some (.notALetter c)
  | none => if t.length % 2 = 1 then some .oddLength else none

/-- The loop over the pairs, in order (R104, R105).  An odd last letter, which a text that is not refused does not have, is given no
partner (R109 (a)). -/
def processPairs (d : Direction) : List Char → State → Host.Outcome (State × Except HostError (List Char)) Fault Refusal
  | [], s => .next (s, .ok [])
  | [_], s => .next (s, .error .oddLength)
  | p :: q :: rest, s =>
    andThen (processPair d p q s) fun r =>
      match r.2 with
      | .error e => .next (r.1, .error e)
      | .ok cs =>
        andThen (processPairs d rest r.1) fun u =>
          match u.2 with
          | .error e => .next (u.1, .error e)
          | .ok out => .next (u.1, .ok (cs.1 :: cs.2 :: out))

/-- `ENCRYPT t` (R104) and `DECRYPT t` (R105): a text outside the domain is rejected before any of it reaches the block (R109, U4,
U5); an empty text issues no transaction. -/
def processText (d : Direction) (t : List Char) (s : State) :
    Host.Outcome (State × Except HostError (List Char)) Fault Refusal :=
  match textError t with
  | some e => .next (s, .error e)
  | none => processPairs d t s

/-- A key entry as a word: an entry that does not fit 32 bits signed is reduced by the host first (U15). -/
def hostKeyWord (v : Int) : Word :=
  if -2147483648 ≤ v ∧ v < 2147483648 then BitVec.ofInt 32 v else zext32 (emod v)

/-- The four writes of a key load (R63, R106). -/
def keyLoad (A : Mat2 Int) : List TransactionWord :=
  [writeOf (.K false false) (hostKeyWord A.m00), writeOf (.K false true) (hostKeyWord A.m01),
    writeOf (.K true false) (hostKeyWord A.m10), writeOf (.K true true) (hostKeyWord A.m11)]

/-- `INVERT a, b, c, d` (R106). -/
def invertMacro (A : Mat2 Int) (s : State) : Host.Outcome (State × Except HostError (Mat2 Word)) Fault Refusal :=
  andThen (issueAll (keyLoad A ++ [encode .invk]) s) fun r =>
    andThen (issue (readOf .STATUS) r.1) fun st =>
      if st.2.getLsbD 3 then
        andThen (issue (readOf (.INV false false)) st.1) fun a =>
          andThen (issue (readOf (.INV false true)) a.1) fun b =>
            andThen (issue (readOf (.INV true false)) b.1) fun c =>
              andThen (issue (readOf (.INV true true)) c.1) fun d =>
                .next (d.1, .ok ⟨a.2, b.2, c.2, d.2⟩)
      else .next (st.1, .error .notInvertible)

/-- `encrypt(plaintext, key)`: `ldk` the key, then `ENCRYPT normalize(plaintext)` (R107). -/
def encryptText (plain : List Char) (A : Mat2 Int) (s : State) :
    Host.Outcome (State × Except HostError (List Char)) Fault Refusal :=
  andThen (issueAll (keyLoad A) s) fun r => processText .encrypting (normalizeText plain) r.1

/-- `decrypt(ciphertext, key)`: `INVERT` the key, and on success `DECRYPT ciphertext` (R107).  The text is looked at by `DECRYPT`, so
that the error of the key comes first (log 13). -/
def decryptText (cipher : List Char) (A : Mat2 Int) (s : State) :
    Host.Outcome (State × Except HostError (List Char)) Fault Refusal :=
  andThen (invertMacro A s) fun r =>
    match r.2 with
    | .error e => .next (r.1, .error e)
    | .ok _ => processText .decrypting cipher r.1

end Sys2Proof.Machine
end

