-- ==== Sys2Proof/Safety.lean ====
section
/-! DEFINITION. The invariants of the block, what a run is, and what it means that an exception was recorded (10_state.md R31,
00_scope.md R13, 60_exceptions.md R122). -/

namespace Sys2Proof.Machine

/-- The values `DINV` may hold: 0 and the twelve units of Z/26Z (R31 (I2)). -/
def dinvValues : List Int := [0, 1, 3, 5, 7, 9, 11, 15, 17, 19, 21, 23, 25]

/-- (I1): every other result register holds a residue. -/
abbrev ResultsAreResidues (s : State) : Prop :=
  uint s.C.x0 < 26 ∧ uint s.C.x1 < 26 ∧ uint s.INV.m00 < 26 ∧ uint s.INV.m01 < 26 ∧ uint s.INV.m10 < 26 ∧
    uint s.INV.m11 < 26 ∧ uint s.DET < 26

/-- (I2). -/
abbrev DinvIsZeroOrUnit (s : State) : Prop := uint s.DINV ∈ dinvValues

/-- (I3). -/
abbrev DvalMeansDeterminant (s : State) : Prop := s.DVAL = true → uint s.DET = detf s.K

/-- (I4). -/
abbrev NvalMeansInverse (s : State) : Prop :=
  s.NVAL = true → s.DVAL = true ∧ emod (uint s.DET * uint s.DINV) = 1

/-- (I5). -/
abbrev MvalMeansInverseMatrix (s : State) : Prop :=
  s.MVAL = true → s.NVAL = true ∧ mapMat uint s.INV = adjinv s.K (uint s.DINV)

/-- (I6). -/
abbrev NiMeansNoInverse (s : State) : Prop :=
  s.NI = true → s.DVAL = true ∧ s.NVAL = false ∧ s.MVAL = false ∧
    ∀ i ∈ candidates, emod (uint s.DET * i) ≠ 1

/-- (I7). -/
abbrev CvalMeansProduct (s : State) : Prop :=
  s.CVAL = true → uint s.V.x0 < 26 ∧ uint s.V.x1 < 26 ∧
    (mapVec uint s.C = mvmul (kr s.K) (mapVec uint s.V) ∨
      s.MVAL = true ∧ mapVec uint s.C = mvmul (mapMat uint s.INV) (mapVec uint s.V))

/-- (I8): `CAUSE` is 0 or a code of R111, and the reserved bits 7:5 and 31:12 of `STATUS` read 0. -/
abbrev CauseIsKnown (s : State) : Prop :=
  s.CAUSE.toNat ≤ 5 ∧ (statusWord s).extractLsb' 5 3 = 0 ∧ (statusWord s).extractLsb' 12 20 = 0

/-- The invariants (R31): "each holds in the reset state and is kept by every transaction". -/
structure Inv (s : State) : Prop where
  resultsAreResidues : ResultsAreResidues s
  dinvIsZeroOrUnit : DinvIsZeroOrUnit s
  dvalMeansDeterminant : DvalMeansDeterminant s
  nvalMeansInverse : NvalMeansInverse s
  mvalMeansInverseMatrix : MvalMeansInverseMatrix s
  niMeansNoInverse : NiMeansNoInverse s
  cvalMeansProduct : CvalMeansProduct s
  causeIsKnown : CauseIsKnown s

/-- A run: the block performs the events of a list, in order, from a state, and ends in another (R13, R43 (b)). -/
def Runs (s : State) (es : List Event) (t : State) : Prop :=
  Host.Core.run Sys2Proof.core es.length { s with requests := es } = .next t

/-- `CAUSE ≠ 0`: "a fault was recorded" (R122). -/
abbrev faultRecorded (s : State) : Prop := s.CAUSE ≠ 0

/-- The determinant of the key over the integers, before any reduction: `sint(K00)·sint(K11) − sint(K01)·sint(K10)` (R75). -/
def rawDet (K : Mat2 Word) : Int := sint K.m00 * sint K.m11 - sint K.m01 * sint K.m10

/-- The key has an inverse mod 26: `gcd(det, 26) = 1` (R81 (c), R112). -/
abbrev Invertible (K : Mat2 Word) : Prop := Int.gcd (rawDet K) 26 = 1

end Sys2Proof.Machine
end

