-- ==== Sys2Proof/WellFormed.lean ====
section
/-! DEFINITION. Which instructions stand for a transaction word (30_encoding.md R55, R58 to R61). -/

namespace Sys2Proof

/-- The eight command words 0x00000000 to 0x00000007 (R113). -/
def isCommandWord (w : Word) : Bool := w.toNat < 8

/-- Every operand fits its field by its type.  The one condition left: the word of an illegal command is no command word. -/
def Instr.wellFormed : Instr → Bool
  | .rd _ => true
  | .wrK _ _ _ => true
  | .wrV _ _ => true
  | .wrC _ => true
  | .wrI _ _ => true
  | .wrD _ => true
  | .wrStatus => true
  | .nop => true
  | .enc => true
  | .det => true
  | .invs => true
  | .minv => true
  | .invk => true
  | .dec => true
  | .clr => true
  | .illegal w => !isCommandWord w

end Sys2Proof
end

