-- ==== Sys2Proof/Certificates/Slice0/Obligations.lean ====
section
/-! DEFINITION. The statements for the provers.  Each docstring names the rule of spec/ it formalises. -/

open Sys2Proof Sys2Proof.Machine

/-! ## Encoding (30_encoding.md, 20_memory.md) -/

/-- 95_test_vectors.md 2.9: words written out from the fields of R51 decode to the instructions they stand for. -/
def Obligations.TableWordsDecodeAsListed : Prop :=
  decode 0x00DEADBEEF = .rd (.K false false) ∧ decode 0x0E00000000 = .rd .STATUS ∧ decode 0x0F00000000 = .rd .CMD ∧
  decode 0x10FFFFFFFD = .wrK false false 0xFFFFFFFD ∧ decode 0x1300000005 = .wrK true true 5 ∧
  decode 0x150000001A = .wrV true 26 ∧ decode 0x1600000000 = .wrC false ∧ decode 0x1A00000001 = .wrI true false ∧
  decode 0x1C00000000 = .wrD false ∧ decode 0x1D00000000 = .wrD true ∧ decode 0x1E00000000 = .wrStatus ∧
  decode 0x1F00000000 = .nop ∧ decode 0x1F00000001 = .enc ∧ decode 0x1F00000002 = .det ∧
  decode 0x1F00000003 = .invs ∧ decode 0x1F00000004 = .minv ∧ decode 0x1F00000005 = .invk ∧
  decode 0x1F00000006 = .dec ∧ decode 0x1F00000007 = .clr ∧ decode 0x1F00000008 = .illegal 8 ∧
  decode 0x1F00000101 = .illegal 0x101

/-- R35: the register map.  Index `2·i + j` is `K[i][j]`, `4 + j` is `V[j]`, `6 + j` is `C[j]`, `8 + 2·i + j` is `INV[i][j]`, then
`DET`, `DINV`, `STATUS`, `CMD`; all sixteen indices are assigned, and the encoder's indices are the same. -/
def Obligations.RegisterMapIsAsTabled : Prop :=
  (∀ i j : Bool, regOfIndex (BitVec.ofNat 4 (2 * i.toNat + j.toNat)) = .K i j ∧
    regOfIndex (BitVec.ofNat 4 (4 + j.toNat)) = .V j ∧ regOfIndex (BitVec.ofNat 4 (6 + j.toNat)) = .C j ∧
    regOfIndex (BitVec.ofNat 4 (8 + 2 * i.toNat + j.toNat)) = .INV i j) ∧
  regOfIndex 12 = .DET ∧ regOfIndex 13 = .DINV ∧ regOfIndex 14 = .STATUS ∧ regOfIndex 15 = .CMD ∧
  (∀ a : BitVec 4, indexOf (regOfIndex a) = a) ∧ ∀ r : Reg, regOfIndex (indexOf r) = r

/-- R58, R64: decoding an encoded well-formed instruction gives it back, with every operand at every value. -/
def Obligations.DecodeOfEncodeIsTheInstruction : Prop :=
  ∀ i : Instr, i.wellFormed = true → decode (encode i) = i

/-- R54, R58, R93 to R96: what decoding forgets is exactly an ignored `wdata`: that of a read, and that of a write to an index in
6..14.  That the word of such a write is no operand, and is encoded as 0, is the model's reading of R58 and R93 to R96 against R61's
"the only one" (log 5); R54 gives the canonical 0 for reads only.  Every decoded instruction is well formed. -/
def Obligations.DecodeForgetsOnlyIgnoredData : Prop :=
  ∀ t : TransactionWord, (decode t).wellFormed = true ∧
    encode (decode t) =
      if weOf t = true ∧ ((addrOf t).toNat < 6 ∨ (addrOf t).toNat = 15) then t else t &&& 0x1F00000000

/-- R58, R61: the row of the decoded instruction selects the word; no other named row does; and an illegal command is a word that
no named row selects. -/
def Obligations.EveryWordHasExactlyOneMeaning : Prop :=
  ∀ t : TransactionWord, (decode t).row.selects t = true ∧
    ((namedRows.filter fun r => r.selects t) = [(decode t).row] ∨
      (namedRows.filter fun r => r.selects t) = [] ∧ ∃ w, decode t = .illegal w)

/-- R59, R60, R113: a write to `CMD` of any word but the eight command words raises `IllegalCommand` (code 2) and changes nothing
else. -/
def Obligations.OtherCommandWordsRaiseIllegalCommand : Prop :=
  (∀ (w : Word) (s : State), exec (.illegal w) s = .next { s with CAUSE := 2 }) ∧
  ∀ (w : Word) (s : State) (rest : List Event), 8 ≤ w.toNat →
    s.requests = .transaction (transactionWord true 15 w) :: rest →
    step s = .next { s with requests := rest, response := some 0, CAUSE := 2 }

/-! ## The step (00_scope.md R12, R13; 20_memory.md R37 to R39; 70_reset_and_hazards.md) -/

/-- R13, R39: a step with a transaction next is the decoded instruction on the state with that transaction accepted: it has left
the list and its response is 0 unless it reads (the response field is the model's, log 2).  A table word placed for the next step is
performed by it (log 4). -/
def Obligations.StepPerformsTheDecodedTransaction : Prop :=
  (∀ (s : State) (t : TransactionWord) (rest : List Event), s.requests = .transaction t :: rest →
    step s = exec (decode t) { s with requests := rest, response := some 0 }) ∧
  ∀ (s : State) (nbits w : Nat) (i : Instr), decodeTableWord nbits w = some i →
    step (s.withFetchWord nbits w) = exec i { s with response := some 0 }

/-- R12: "when no transaction is in progress no state changes"; that no event waits is the model's way to say so (log 1). -/
def Obligations.IdleBlockKeepsItsState : Prop :=
  ∀ s : State, s.requests = [] → step s = .next s

/-- R127: a reset is a distinct event that maps every state to the reset state; the events after it are still to come (log 3). -/
def Obligations.ResetEventGivesTheResetState : Prop :=
  ∀ (s : State) (rest : List Event), s.requests = .reset :: rest →
    step s = .next { State.reset with requests := rest }

/-- R30: every piece of state of R14 is zero after reset, and a read of `STATUS`, as of every register, returns 0. -/
def Obligations.ResetStateIsAllZero : Prop :=
  State.reset.K = ⟨0, 0, 0, 0⟩ ∧ State.reset.V = ⟨0, 0⟩ ∧ State.reset.C = ⟨0, 0⟩ ∧ State.reset.INV = ⟨0, 0, 0, 0⟩ ∧
  State.reset.DET = 0 ∧ State.reset.DINV = 0 ∧ State.reset.CVAL = false ∧ State.reset.DVAL = false ∧
  State.reset.NVAL = false ∧ State.reset.MVAL = false ∧ State.reset.NI = false ∧ State.reset.CAUSE = 0 ∧
  ∀ a : Reg, exec (.rd a) State.reset = .next { State.reset with response := some 0 }

/-- R38, R61: no transaction is refused or dropped: each completes in a next state, with exactly one response, which is 0 for a
write (R37). -/
def Obligations.EveryTransactionCompletes : Prop :=
  (∀ s : State, ∃ t, step s = .next t) ∧
  ∀ (s : State) (t : TransactionWord) (rest : List Event), s.requests = .transaction t :: rest →
    ∃ u w, step s = .next u ∧ u.requests = rest ∧ u.response = some w ∧ (weOf t = true → w = 0)

/-! ## Register access (46_register_access_and_control.md) -/

/-- R90: a read, whatever its `wdata`, returns the register's stored word (for `STATUS` the word of R21, for `CMD` 0) and changes
nothing else; from a state of the invariants, a read of a result register returns a word below 26 (R90's corner case (c)). -/
def Obligations.ReadReturnsTheStoredWord : Prop :=
  (∀ (x : Word) (a : BitVec 4), decode (transactionWord false a x) = .rd (regOfIndex a)) ∧
  (∀ (s : State) (a : Reg) (v : Word), Inv s → ((∃ j, a = .C j) ∨ (∃ i j, a = .INV i j) ∨ a = .DET ∨ a = .DINV) →
    exec (.rd a) s = .next { s with response := some v } → v.toNat < 26) ∧
  ∀ (s : State) (a : Reg), ∃ v : Word, exec (.rd a) s = .next { s with response := some v } ∧
    match a with
    | .K false false => v = s.K.m00
    | .K false true => v = s.K.m01
    | .K true false => v = s.K.m10
    | .K true true => v = s.K.m11
    | .V false => v = s.V.x0
    | .V true => v = s.V.x1
    | .C false => v = s.C.x0
    | .C true => v = s.C.x1
    | .INV false false => v = s.INV.m00
    | .INV false true => v = s.INV.m01
    | .INV true false => v = s.INV.m10
    | .INV true true => v = s.INV.m11
    | .DET => v = s.DET
    | .DINV => v = s.DINV
    | .STATUS => v.toNat = s.CVAL.toNat + 2 * s.DVAL.toNat + 4 * s.NVAL.toNat + 8 * s.MVAL.toNat + 16 * s.NI.toNat +
        256 * s.CAUSE.toNat
    | .CMD => v = 0

/-- R21: the layout of `STATUS`, bit by bit: 0 `CVAL`, 1 `DVAL`, 2 `NVAL`, 3 `MVAL`, 4 `NI`, 7:5 zero, 11:8 `CAUSE`, 31:12 zero. -/
def Obligations.StatusReadsAsLaidOut : Prop :=
  ∀ s : State, ∃ v : Word, exec (.rd .STATUS) s = .next { s with response := some v } ∧
    v.getLsbD 0 = s.CVAL ∧ v.getLsbD 1 = s.DVAL ∧ v.getLsbD 2 = s.NVAL ∧ v.getLsbD 3 = s.MVAL ∧ v.getLsbD 4 = s.NI ∧
    v.extractLsb' 5 3 = 0 ∧ v.extractLsb' 8 4 = s.CAUSE ∧ v.extractLsb' 12 20 = 0

/-- R91: a key write stores the word unreduced in its own entry, clears the five flags whatever the word, and changes nothing
else; `TW` is `0x10…` to `0x13…`.  No other instruction changes the key (R91's corner case (c)). -/
def Obligations.KeyWriteStoresTheWordAndDropsTheFlags : Prop :=
  (∀ (i j : Bool) (w : Word),
    decode (transactionWord true (BitVec.ofNat 4 (2 * i.toNat + j.toNat)) w) = .wrK i j w) ∧
  (∀ (i j : Bool) (w : Word) (s : State), ∃ t : State, exec (.wrK i j w) s = .next t ∧
    getEntry t.K i j = w ∧ (∀ i' j' : Bool, (i' ≠ i ∨ j' ≠ j) → getEntry t.K i' j' = getEntry s.K i' j') ∧
    t = { s with K := t.K, CVAL := false, DVAL := false, NVAL := false, MVAL := false, NI := false }) ∧
  ∀ (x : Instr) (s t : State), exec x s = .next t → t.K ≠ s.K → ∃ i j w, x = .wrK i j w

/-- R92: an input write stores the word unchecked in its own component, clears `CVAL` and changes nothing else; `TW` is `0x14…`
or `0x15…`. -/
def Obligations.InputWriteStoresTheWordAndDropsCval : Prop :=
  (∀ (j : Bool) (w : Word), decode (transactionWord true (BitVec.ofNat 4 (4 + j.toNat)) w) = .wrV j w) ∧
  ∀ (j : Bool) (w : Word) (s : State), ∃ t : State, exec (.wrV j w) s = .next t ∧
    getComponent t.V j = w ∧ getComponent t.V (!j) = getComponent s.V (!j) ∧ t = { s with V := t.V, CVAL := false }

/-- R93 to R96, R116: a host write to `C`, `INV`, `DET`, `DINV` or `STATUS` raises `IllegalAccess` (code 5); the word is discarded
and only `CAUSE` changes.  The second part says it of the transaction words: every write to an index in 6..14. -/
def Obligations.WritesToReadOnlyRegistersRaiseIllegalAccess : Prop :=
  (∀ (i j : Bool) (s : State), exec (.wrC j) s = .next { s with CAUSE := 5 } ∧
    exec (.wrI i j) s = .next { s with CAUSE := 5 } ∧ exec (.wrD j) s = .next { s with CAUSE := 5 } ∧
    exec .wrStatus s = .next { s with CAUSE := 5 }) ∧
  ∀ (a : BitVec 4) (w : Word) (s : State) (rest : List Event), 6 ≤ a.toNat → a.toNat ≤ 14 →
    s.requests = .transaction (transactionWord true a w) :: rest →
    step s = .next { s with requests := rest, response := some 0, CAUSE := 5 }

/-- R97: `NOP` (`TW` = `0x1F00000000`) changes nothing. -/
def Obligations.NopChangesNothing : Prop :=
  decode 0x1F00000000 = .nop ∧ ∀ s : State, exec .nop s = .next s

/-- R98: `CLR` (`TW` = `0x1F00000007`) zeroes every result register, the five flags and `CAUSE`, and keeps `K` and `V`: the state
after it differs from the reset state only there (and in the port's fields, which it does not touch). -/
def Obligations.ClrKeepsOnlyTheOperands : Prop :=
  decode 0x1F00000007 = .clr ∧
  ∀ s : State, exec .clr s =
    .next { State.reset with K := s.K, V := s.V, requests := s.requests, response := s.response }

/-! ## The commands (41 to 45) -/

/-- R73: `ENC` (`TW` = `0x1F00000001`).  With both components of `V` below 26, `C` is the product with the key taken over the raw
signed entries and reduced mod 26 (R67, R68), `CVAL` is set and nothing else changes; else `OperandRange` (code 3) and nothing
else. -/
def Obligations.EncMultipliesByTheKey : Prop :=
  decode 0x1F00000001 = .enc ∧
  ∀ s : State,
    (s.V.x0.toNat < 26 → s.V.x1.toNat < 26 → exec .enc s = .next { s with
      C := ⟨BitVec.ofInt 32 ((s.K.m00.toInt * s.V.x0.toNat + s.K.m01.toInt * s.V.x1.toNat) % 26),
            BitVec.ofInt 32 ((s.K.m10.toInt * s.V.x0.toNat + s.K.m11.toInt * s.V.x1.toNat) % 26)⟩
      CVAL := true }) ∧
    ((26 ≤ s.V.x0.toNat ∨ 26 ≤ s.V.x1.toNat) → exec .enc s = .next { s with CAUSE := 3 })

/-- R75, R76: `DET` (`TW` = `0x1F00000002`) always succeeds: `DET` is the determinant of the raw signed entries over the integers,
reduced mod 26, `DVAL` is set and nothing else changes. -/
def Obligations.DetComputesTheDeterminant : Prop :=
  decode 0x1F00000002 = .det ∧
  ∀ s : State, exec .det s = .next { s with
    DET := BitVec.ofInt 32 ((s.K.m00.toInt * s.K.m11.toInt - s.K.m01.toInt * s.K.m10.toInt) % 26)
    DVAL := true }

/-- R80: `INVS` (`TW` = `0x1F00000003`).  With `DVAL` = 0, `SequenceError` (code 4) and nothing else.  Else, with an `i` in 1..25
such that `DET·i mod 26 = 1`, `DINV` is that `i`, `NVAL` is set and `NI` cleared; with none, `NVAL` is cleared, `NI` set and
`NotInvertible` (code 1) recorded. -/
def Obligations.InvsSearchesTheInverse : Prop :=
  decode 0x1F00000003 = .invs ∧
  ∀ s : State,
    (s.DVAL = false → exec .invs s = .next { s with CAUSE := 4 }) ∧
    (∀ i : Nat, s.DVAL = true → 1 ≤ i → i ≤ 25 → s.DET.toNat * i % 26 = 1 →
      exec .invs s = .next { s with DINV := BitVec.ofNat 32 i, NVAL := true, NI := false }) ∧
    (s.DVAL = true → (∀ i : Nat, 1 ≤ i → i ≤ 25 → s.DET.toNat * i % 26 ≠ 1) →
      exec .invs s = .next { s with NVAL := false, NI := true, CAUSE := 1 })

/-- R82, R83: `MINV` (`TW` = `0x1F00000004`).  With `NVAL` = 0 it raises `NotInvertible` (code 1) when `NI` = 1 and
`SequenceError` (code 4) when `NI` = 0, and nothing else changes.  Else `INV` is `DINV` times the adjugate of the key, each entry
reduced mod 26, `MVAL` is set and nothing else changes. -/
def Obligations.MinvBuildsTheInverseMatrix : Prop :=
  decode 0x1F00000004 = .minv ∧
  ∀ s : State,
    (s.NVAL = false → s.NI = true → exec .minv s = .next { s with CAUSE := 1 }) ∧
    (s.NVAL = false → s.NI = false → exec .minv s = .next { s with CAUSE := 4 }) ∧
    (s.NVAL = true → exec .minv s = .next { s with
      INV := ⟨BitVec.ofInt 32 (s.DINV.toNat * s.K.m11.toInt % 26), BitVec.ofInt 32 (s.DINV.toNat * -s.K.m01.toInt % 26),
              BitVec.ofInt 32 (s.DINV.toNat * -s.K.m10.toInt % 26), BitVec.ofInt 32 (s.DINV.toNat * s.K.m00.toInt % 26)⟩
      MVAL := true })

/-- R84, R85: `INVK` (`TW` = `0x1F00000005`).  With an `i` in 1..25 that inverts the determinant mod 26, `DET`, `DINV`, `INV` and
the flags of all three stages are written and `NI` is cleared; with none, `DET` and `DVAL` are written, `NVAL` is cleared, `NI` set and
`NotInvertible` (code 1) recorded.  Nothing else changes. -/
def Obligations.InvkInvertsTheKey : Prop :=
  decode 0x1F00000005 = .invk ∧
  ∀ s : State,
    (∀ i : Nat, 1 ≤ i → i ≤ 25 → rawDet s.K * i % 26 = 1 → exec .invk s = .next { s with
      DET := BitVec.ofInt 32 (rawDet s.K % 26), DVAL := true
      DINV := BitVec.ofNat 32 i, NVAL := true, NI := false
      INV := ⟨BitVec.ofInt 32 (i * s.K.m11.toInt % 26), BitVec.ofInt 32 (i * -s.K.m01.toInt % 26),
              BitVec.ofInt 32 (i * -s.K.m10.toInt % 26), BitVec.ofInt 32 (i * s.K.m00.toInt % 26)⟩
      MVAL := true }) ∧
    ((∀ i : Nat, 1 ≤ i → i ≤ 25 → rawDet s.K * i % 26 ≠ 1) → exec .invk s = .next { s with
      DET := BitVec.ofInt 32 (rawDet s.K % 26), DVAL := true, NVAL := false, NI := true, CAUSE := 1 })

/-- R87, R119: `DEC` (`TW` = `0x1F00000006`).  First the prerequisite: with `MVAL` = 0, `NotInvertible` (code 1) when `NI` = 1, else
`SequenceError` (code 4), whatever `V` holds; then the range: `OperandRange` (code 3); each changes only `CAUSE`.  Else `C` is the
product with `INV` reduced mod 26, `CVAL` is set and nothing else changes. -/
def Obligations.DecMultipliesByTheInverse : Prop :=
  decode 0x1F00000006 = .dec ∧
  ∀ s : State,
    (s.MVAL = false → s.NI = true → exec .dec s = .next { s with CAUSE := 1 }) ∧
    (s.MVAL = false → s.NI = false → exec .dec s = .next { s with CAUSE := 4 }) ∧
    (s.MVAL = true → (26 ≤ s.V.x0.toNat ∨ 26 ≤ s.V.x1.toNat) → exec .dec s = .next { s with CAUSE := 3 }) ∧
    (s.MVAL = true → s.V.x0.toNat < 26 → s.V.x1.toNat < 26 → exec .dec s = .next { s with
      C := ⟨BitVec.ofNat 32 ((s.INV.m00.toNat * s.V.x0.toNat + s.INV.m01.toNat * s.V.x1.toNat) % 26),
            BitVec.ofNat 32 ((s.INV.m10.toNat * s.V.x0.toNat + s.INV.m11.toNat * s.V.x1.toNat) % 26)⟩
      CVAL := true })

/-! ## Arithmetic (40_arithmetic.md, 43_inverse_search.md) -/

/-- R65: `emod(x, 26)` is the unique integer in 0..25 that differs from `x` by a multiple of 26; it is `x − 26·floor(x/26)` and the
corrected truncating remainder `((x % 26) + 26) % 26`. -/
def Obligations.EmodIsTheUniqueResidue : Prop :=
  ∀ x : Int, (0 ≤ emod x ∧ emod x ≤ 25 ∧ (26 : Int) ∣ x - emod x) ∧
    (∀ r : Int, 0 ≤ r → r ≤ 25 → (26 : Int) ∣ x - r → r = emod x) ∧
    emod x = x - 26 * x.fdiv 26 ∧ emod x = ((x.tmod 26) + 26).tmod 26

/-- R79: the complete table of `invsearch`, `d` = 0 to 25. -/
def Obligations.InverseSearchTable : Prop :=
  (List.range 26).map (fun d => invsearch (d : Int)) =
    [none, some 1, none, some 9, none, some 21, none, some 15, none, some 3, none, some 19, none, none, none, some 7, none,
      some 23, none, some 11, none, some 5, none, some 17, none, some 25]

/-- R78, R81 (a) to (d): for every integer, the search finds exactly when `gcd(d, 26) = 1`; what it finds is in 1..25, inverts `d`,
is the only such candidate, and is itself inverted by the residue of `d`.  The rules define the search for the residues 0..25; that it
takes every integer is the model's (log 14). -/
def Obligations.InverseSearchFindsExactlyTheUnits : Prop :=
  ∀ d : Int, ((invsearch d).isSome = true ↔ Int.gcd d 26 = 1) ∧
    ∀ q : Int, invsearch d = some q ↔ 1 ≤ q ∧ q ≤ 25 ∧ d * q % 26 = 1 ∧ invsearch q = some (d % 26)

/-- R66: two keys with the same reduced entries are indistinguishable to every command: from states that differ only so, every
transaction but a read or a write of a key register leads to states that differ only so. -/
def Obligations.OnlyTheReducedKeyMatters : Prop :=
  ∀ (i : Instr) (s t : State) (K' : Mat2 Word), (∀ a b : Bool, i ≠ .rd (.K a b)) → (∀ a b w, i ≠ .wrK a b w) →
    (∀ a b : Bool, (getEntry K' a b).toInt % 26 = (getEntry s.K a b).toInt % 26) →
    exec i s = .next t → exec i { s with K := K' } = .next { t with K := K' }

/-! ## Rules about all transactions (10_state.md, 60_exceptions.md) -/

/-- R15, R16, R18 to R20: which transactions write which registers.  Each register that differs after a transaction was written by one
of the instructions its rule names. -/
def Obligations.RegistersAreWrittenOnlyByTheirWriters : Prop :=
  ∀ (i : Instr) (s t : State), exec i s = .next t →
    (t.K ≠ s.K → ∃ a b w, i = .wrK a b w) ∧
    (t.V ≠ s.V → ∃ b w, i = .wrV b w) ∧
    (t.C ≠ s.C → i = .enc ∨ i = .dec ∨ i = .clr) ∧
    (t.INV ≠ s.INV → i = .minv ∨ i = .invk ∨ i = .clr) ∧
    (t.DET ≠ s.DET → i = .det ∨ i = .invk ∨ i = .clr) ∧
    (t.DINV ≠ s.DINV → i = .invs ∨ i = .invk ∨ i = .clr) ∧
    t.requests = s.requests ∧ (t.response ≠ s.response → ∃ a, i = .rd a)

/-- R22 to R26, R32: which transactions set and which clear each flag. -/
def Obligations.FlagsAreWrittenOnlyByTheirWriters : Prop :=
  ∀ (i : Instr) (s t : State), exec i s = .next t →
    (s.CVAL = false → t.CVAL = true → i = .enc ∨ i = .dec) ∧
    (s.CVAL = true → t.CVAL = false → (∃ a b w, i = .wrK a b w) ∨ (∃ b w, i = .wrV b w) ∨ i = .clr) ∧
    (s.DVAL = false → t.DVAL = true → i = .det ∨ i = .invk) ∧
    (s.DVAL = true → t.DVAL = false → (∃ a b w, i = .wrK a b w) ∨ i = .clr) ∧
    (s.NVAL = false → t.NVAL = true → i = .invs ∨ i = .invk) ∧
    (s.NVAL = true → t.NVAL = false → (∃ a b w, i = .wrK a b w) ∨ i = .clr ∨ i = .invs ∨ i = .invk) ∧
    (s.MVAL = false → t.MVAL = true → i = .minv ∨ i = .invk) ∧
    (s.MVAL = true → t.MVAL = false → (∃ a b w, i = .wrK a b w) ∨ i = .clr) ∧
    (s.NI = false → t.NI = true → i = .invs ∨ i = .invk) ∧
    (s.NI = true → t.NI = false → (∃ a b w, i = .wrK a b w) ∨ i = .clr ∨ i = .invs ∨ i = .invk)

/-- R28, R122: `CAUSE` is sticky.  A transaction leaves it, or records one of the codes 1 to 5, or is `CLR`, which alone zeroes it. -/
def Obligations.CauseIsSticky : Prop :=
  ∀ (i : Instr) (s t : State), exec i s = .next t →
    (i = .clr ∧ t.CAUSE = 0) ∨ (i ≠ .clr ∧ (t.CAUSE = s.CAUSE ∨ (1 ≤ t.CAUSE.toNat ∧ t.CAUSE.toNat ≤ 5)))

/-- R122: "no rule reads `CAUSE`".  From states that differ only in `CAUSE`, every transaction but the read of `STATUS` leads to
states that differ at most in `CAUSE`, and there only by keeping the difference. -/
def Obligations.NoRuleReadsCause : Prop :=
  ∀ (i : Instr) (s t : State) (c : BitVec 4), i ≠ .rd .STATUS → exec i s = .next t →
    ∃ c', exec i { s with CAUSE := c } = .next { t with CAUSE := c' } ∧ (c' = t.CAUSE ∨ (c' = c ∧ t.CAUSE = s.CAUSE))

/-- R22: "Nothing in the hardware reads" `CVAL`: the same of it. -/
def Obligations.NoCommandReadsCval : Prop :=
  ∀ (i : Instr) (s t : State) (b : Bool), i ≠ .rd .STATUS → exec i s = .next t →
    ∃ b', exec i { s with CVAL := b } = .next { t with CVAL := b' } ∧ (b' = t.CVAL ∨ (b' = b ∧ t.CVAL = s.CVAL))

/-- R47: repeating a transaction at once, with nothing between, changes nothing more. -/
def Obligations.RepeatingATransactionChangesNothing : Prop :=
  ∀ (i : Instr) (s t : State), exec i s = .next t → exec i t = .next t

/-! ## Rules about several commands (44, 45) -/

/-- R86: `INVK` equals the sequence `DET`; `INVS`; `MINV`, on invertible and on non-invertible keys (here from every state, also one
that violates the invariants). -/
def Obligations.InvkEqualsDetInvsMinv : Prop :=
  ∀ s : State, ∃ a b c : State, exec .det s = .next a ∧ exec .invs a = .next b ∧ exec .minv b = .next c ∧
    exec .invk s = .next c

/-- R81 (c), R112: `INVK` records `NotInvertible`, and sets `NI`, exactly when `gcd(det, 26) ≠ 1`; else it sets `MVAL`. -/
def Obligations.InvkFailsExactlyWithoutInverse : Prop :=
  ∀ s : State, ∃ t : State, exec .invk s = .next t ∧ t.DVAL = true ∧
    (Int.gcd (s.K.m00.toInt * s.K.m11.toInt - s.K.m01.toInt * s.K.m10.toInt) 26 ≠ 1 →
      t.NI = true ∧ t.NVAL = false ∧ t.CAUSE = 1 ∧ t.INV = s.INV ∧ t.DINV = s.DINV) ∧
    (Int.gcd (s.K.m00.toInt * s.K.m11.toInt - s.K.m01.toInt * s.K.m10.toInt) 26 = 1 →
      t.NI = false ∧ t.NVAL = true ∧ t.MVAL = true ∧ t.CAUSE = s.CAUSE)

/-- R84: after `INVK` on an invertible key, `INV·K` and `K·INV` are both the identity matrix mod 26. -/
def Obligations.InvkInverseIsTwoSided : Prop :=
  ∀ s : State, Invertible s.K → ∃ t : State, exec .invk s = .next t ∧
    (t.INV.m00.toNat * s.K.m00.toInt + t.INV.m01.toNat * s.K.m10.toInt) % 26 = 1 ∧
    (t.INV.m00.toNat * s.K.m01.toInt + t.INV.m01.toNat * s.K.m11.toInt) % 26 = 0 ∧
    (t.INV.m10.toNat * s.K.m00.toInt + t.INV.m11.toNat * s.K.m10.toInt) % 26 = 0 ∧
    (t.INV.m10.toNat * s.K.m01.toInt + t.INV.m11.toNat * s.K.m11.toInt) % 26 = 1 ∧
    (s.K.m00.toInt * t.INV.m00.toNat + s.K.m01.toInt * t.INV.m10.toNat) % 26 = 1 ∧
    (s.K.m00.toInt * t.INV.m01.toNat + s.K.m01.toInt * t.INV.m11.toNat) % 26 = 0 ∧
    (s.K.m10.toInt * t.INV.m00.toNat + s.K.m11.toInt * t.INV.m10.toNat) % 26 = 0 ∧
    (s.K.m10.toInt * t.INV.m01.toNat + s.K.m11.toInt * t.INV.m11.toNat) % 26 = 1

/-- R88, in commands: from a state of the invariants with `MVAL` = 1, loading a residue pair, `enc`, loading the `C` it gives, and
`dec` leaves the pair in `C`. -/
def Obligations.EncThenDecRestoresThePair : Prop :=
  ∀ (s : State) (p q : Word), Inv s → s.MVAL = true → p.toNat < 26 → q.toNat < 26 →
    ∃ t u : State,
      Runs s [.transaction (writeOf (.V false) p), .transaction (writeOf (.V true) q), .transaction (encode .enc)] t ∧
      Runs t [.transaction (writeOf (.V false) t.C.x0), .transaction (writeOf (.V true) t.C.x1),
        .transaction (encode .dec)] u ∧
      t.CVAL = true ∧ u.CVAL = true ∧ u.C = ⟨p, q⟩

/-- R89: `DEC` and `ENC` differ only in where the matrix comes from.  After the four key writes that load `INV` as the key (which
clear the five flags), `enc` gives the `C` that `dec` gives with the original key; and `invk` gives the reduced original key as the
inverse. -/
def Obligations.InverseLoadedAsKeyActsAsDec : Prop :=
  ∀ s : State, Inv s → s.MVAL = true →
    (s.V.x0.toNat < 26 → s.V.x1.toNat < 26 → ∃ t u : State, exec .dec s = .next t ∧ t.CVAL = true ∧
      Runs s [.transaction (writeOf (.K false false) s.INV.m00), .transaction (writeOf (.K false true) s.INV.m01),
        .transaction (writeOf (.K true false) s.INV.m10), .transaction (writeOf (.K true true) s.INV.m11),
        .transaction (encode .enc)] u ∧
      u.K = s.INV ∧ u.CVAL = true ∧ u.C = t.C) ∧
    ∃ u : State,
      Runs s [.transaction (writeOf (.K false false) s.INV.m00), .transaction (writeOf (.K false true) s.INV.m01),
        .transaction (writeOf (.K true false) s.INV.m10), .transaction (writeOf (.K true true) s.INV.m11),
        .transaction (encode .invk)] u ∧
      u.MVAL = true ∧ u.INV = ⟨BitVec.ofInt 32 (s.K.m00.toInt % 26), BitVec.ofInt 32 (s.K.m01.toInt % 26),
        BitVec.ofInt 32 (s.K.m10.toInt % 26), BitVec.ofInt 32 (s.K.m11.toInt % 26)⟩

/-- R74 (e) (general knowledge of the spec, G3): for a fixed key, `ENC` distinguishes all residue pairs exactly when the key is
invertible mod 26. -/
def Obligations.EncIsInjectiveExactlyOnInvertibleKeys : Prop :=
  ∀ s : State, Invertible s.K ↔
    ∀ (v w : Vec2 Word) (t u : State), v.x0.toNat < 26 → v.x1.toNat < 26 → w.x0.toNat < 26 → w.x1.toNat < 26 →
      exec .enc { s with V := v } = .next t → exec .enc { s with V := w } = .next u → t.C = u.C → v = w

/-! ## The invariants (10_state.md R31) -/

/-- R31: each invariant holds in the reset state. -/
def Obligations.InvariantsHoldAtReset : Prop := Inv State.reset

/-- R31: each invariant is kept by every transaction (and by every reset event): from every state that meets them. -/
def Obligations.EveryStepKeepsTheInvariants : Prop :=
  ∀ s t : State, Inv s → step s = .next t → Inv t

/-- R13, R31, R43 (b): from every state of the invariants, every finite sequence of events runs to its end, without a fault or a
refusal, in a state of the invariants. -/
def Obligations.EveryRunCompletesWithinTheInvariants : Prop :=
  ∀ (s : State) (es : List Event), Inv s → ∃ t : State, Runs s es t ∧ Inv t ∧ t.requests = []

/-! ## The port at clock edges (20_memory.md R37, R38; 70_reset_and_hazards.md R126, R127) -/

/-- R126: at every edge with `rst` = 1 the state becomes the reset state, whatever else is happening; while `rst` = 1, `req_ready`
and `rsp_valid` are 0 and nothing is accepted.  The waiting events are kept (the model's choice, log 3), and `req_ready` is raised after
the first edge with `rst` = 0, where the spec says that it may be (the model's choice, log 9). -/
def Obligations.ResetEdgeGivesTheResetState : Prop :=
  (∀ (i : PortIn) (c : Clocked), i.rst = true →
    edge i c = .next ⟨{ State.reset with requests := c.block.requests }, .underReset⟩ ∧ acceptsAt i c = false) ∧
  (∀ c : Clocked, portOut true c = ⟨false, none⟩) ∧
  ∀ (i : PortIn) (c : Clocked), i.rst = false → c.phase = .underReset →
    portOut false c = ⟨false, none⟩ ∧ edge i c = .next ⟨c.block, .idle⟩ ∧ portOut false ⟨c.block, .idle⟩ = ⟨true, none⟩

/-- R38: an accepted transaction is answered once, `LAT(t)` cycles after its acceptance; that these are counted as edges, from the one of
acceptance to the one that starts the response cycle, is the model's reading (log 9), and `LAT` is a constant of which nothing but
`LAT(t) ≥ 1` is known (log 10).  Before that `req_ready` and `rsp_valid` are
0; then `rsp_valid` is 1 for one cycle, with the response of the step that performs the transaction.  The model's choices (log 9): the
block's state is as before until the edge that ends the response cycle, and `req_ready` is 0 in the response cycle and 1 in the next. -/
def Obligations.AcceptedTransactionIsAnsweredAfterItsLatency : Prop :=
  ∀ (c : Clocked) (i j : PortIn) (ins : List PortIn), acceptsAt i c = true → (∀ k ∈ ins, k.rst = false) → j.rst = false →
    ins.length = Config.latency i.word →
    (∀ n, n < Config.latency i.word → ∃ d, edges (i :: ins.take n) c = .next d ∧ d.block = c.block ∧
      portOut false d = ⟨false, none⟩) ∧
    ∃ d e w, edges (i :: ins) c = .next d ∧ d.block = c.block ∧ portOut false d = ⟨false, some w⟩ ∧
      edge j d = .next e ∧ step (present (.transaction i.word) c.block) = .next e.block ∧ e.block.response = some w ∧
      portOut false e = ⟨true, none⟩

/-- R127: a reset between acceptance and response, which may come as late as the cycle in which the response would be given,
abandons the transaction: it has no response in that cycle, it does not appear in the sequence of events, the state is the reset state,
and as long as the host requests nothing no response is given.  That a reset in the response cycle still abandons is the model's
reading of R126 and R127, and that `rst` at an edge is that of the whole cycle before it is its choice (log 9); that the waiting events
are kept is its choice (log 3). -/
def Obligations.ResetAbandonsTheTransactionInFlight : Prop :=
  ∀ (c : Clocked) (t : TransactionWord) (n : Nat) (i : PortIn) (ins : List PortIn),
    (c.phase = .busy t n ∨ c.phase = .responding t) → i.rst = true → (∀ k ∈ ins, k.reqValid = false) →
    (portOut i.rst c).rsp = none ∧ (∀ e ∈ eventsOf (i :: ins) c, e = .reset) ∧
    ∃ d, edges (i :: ins) c = .next d ∧ d.block = { State.reset with requests := c.block.requests } ∧
      (portOut false d).rsp = none

/-- R37, R38, R127: the transactions in the sequence are exactly those that are answered.  A cycle with a response ends in an edge at
which a transaction takes effect, and a transaction takes effect only so; the word answered is the response of the step that performs
it.  At which edge that is, and that `req_ready` is 0 in the response cycle and 1 in the next, are the model's choices (log 9). -/
def Obligations.ExactlyTheAnsweredTransactionsTakeEffect : Prop :=
  ∀ (i : PortIn) (c : Clocked),
    (∀ t, eventAt i c = some (.transaction t) → ∃ u w, step (present (.transaction t) c.block) = .next u ∧
      u.response = some w ∧ portOut i.rst c = ⟨false, some w⟩ ∧ edge i c = .next ⟨u, .idle⟩) ∧
    ∀ w, (portOut i.rst c).rsp = some w → ∃ t, eventAt i c = some (.transaction t)

/-- R13, R41, R43 (b): the block at clock edges refines the step: whatever the inputs at the edges, its state is the one that the
step reaches from the same state over the transactions completed and the resets, in that order (at which edge an effect happens is the
model's choice, log 9). -/
def Obligations.ClockedBlockRefinesTheStep : Prop :=
  ∀ (ins : List PortIn) (c : Clocked), c.block.requests = [] →
    ∃ d, edges ins c = .next d ∧ Runs c.block (eventsOf ins c) d.block

/-! ## The host's software (47_host_sequences.md) -/

/-- R99: the letter mapping is a bijection between `A`..`Z` and the residues 0..25, with the eight mappings the source shows; the
numbering of the other letters is from general knowledge (G2, log 13). -/
def Obligations.LettersAndResiduesCorrespond : Prop :=
  (∀ c : Char, isCapital c = true → 0 ≤ residueOf c ∧ residueOf c ≤ 25 ∧ letterOf (zext32 (residueOf c)) = c) ∧
  (∀ w : Word, w.toNat < 26 → isCapital (letterOf w) = true ∧ residueOf (letterOf w) = w.toNat) ∧
  residueOf 'H' = 7 ∧ residueOf 'E' = 4 ∧ residueOf 'L' = 11 ∧ residueOf 'P' = 15 ∧
  letterOf 7 = 'H' ∧ letterOf 8 = 'I' ∧ letterOf 0 = 'A' ∧ letterOf 19 = 'T'

/-- R100 to R103: `normalize` gives capitals only, of even length, is idempotent, and pads with one `X` exactly when the number of
letters is odd.  What it keeps is the 52 letters by their codes, in order (R100); what they become has the codes of the capitals (R101). -/
def Obligations.NormalizeIsIdempotentAndEven : Prop :=
  ∀ raw : List Char, (∀ c ∈ normalizeText raw, isCapital c = true) ∧ (normalizeText raw).length % 2 = 0 ∧
    normalizeText (normalizeText raw) = normalizeText raw ∧
    ((lettersOnly raw).length % 2 = 0 → normalizeText raw = (lettersOnly raw).map capital) ∧
    ((lettersOnly raw).length % 2 = 1 → normalizeText raw = (lettersOnly raw).map capital ++ ['X']) ∧
    (lettersOnly raw = raw.filter fun c => decide ((65 ≤ c.toNat ∧ c.toNat ≤ 90) ∨ (97 ≤ c.toNat ∧ c.toNat ≤ 122))) ∧
    ∀ c : Char, (97 ≤ c.toNat ∧ c.toNat ≤ 122 → (capital c).toNat = c.toNat - 32) ∧
      (¬ (97 ≤ c.toNat ∧ c.toNat ≤ 122) → capital c = c)

/-- R109 (a), (b): a text of odd length, or with a character that is no capital, is rejected before it reaches the block: the state is
unchanged.  The model's choices (log 13): to reject such a character and not to normalise it, the errors, and that the character comes
first. -/
def Obligations.RefusedTextsReachNoTransaction : Prop :=
  ∀ (d : Direction) (t : List Char) (s : State),
    (∀ c ∈ t, (∀ w : Word, w.toNat < 26 → letterOf w ≠ c) → ∃ c' ∈ t, (∀ w : Word, w.toNat < 26 → letterOf w ≠ c') ∧
      processText d t s = .next (s, .error (.notALetter c'))) ∧
    ((∀ c ∈ t, ∃ w : Word, w.toNat < 26 ∧ letterOf w = c) → t.length % 2 = 1 →
      processText d t s = .next (s, .error .oddLength))

/-- R88, R107: the source's round trip, through the transactions: from every state, with a key of any integers whose determinant is
a unit mod 26, `decrypt(encrypt(P, K), K)` is `normalize(P)`.  That the host reduces an entry beyond 32 bits to its residue is the model's
choice (log 13). -/
def Obligations.DecryptOfEncryptIsNormalize : Prop :=
  ∀ (s : State) (plain : List Char) (A : Mat2 Int), Int.gcd (A.m00 * A.m11 - A.m01 * A.m10) 26 = 1 →
    ∃ t u out, encryptText plain A s = .next (t, .ok out) ∧ decryptText out A t = .next (u, .ok (normalizeText plain))

/-- R105 to R107: with a key whose determinant is no unit mod 26, `decrypt` reports `NotInvertibleError` and gives no text, while
`encrypt` still completes (R73 (a)).  The model's choices (log 13): the host reduces an entry beyond 32 bits to its residue, and `decrypt`
looks at the text only after `INVERT`, so that the key's error comes first also for a text of odd length or with other characters. -/
def Obligations.DecryptReportsNotInvertible : Prop :=
  ∀ (s : State) (text : List Char) (A : Mat2 Int), Int.gcd (A.m00 * A.m11 - A.m01 * A.m10) 26 ≠ 1 →
    (∃ t, decryptText text A s = .next (t, .error .notInvertible) ∧ t.NI = true ∧ t.CAUSE = 1) ∧
    ∃ t out, encryptText text A s = .next (t, .ok out) ∧ out.length = (normalizeText text).length
end

