-- ==== Sys2Proof/Laws/Decode.lean ====
section
/-! SUPPORT. The fields of a transaction word that is put together from them, and what such words decode to. -/

namespace Sys2Proof

theorem transactionWord_toNat (we : Bool) (a : BitVec 4) (w : Word) :
    (transactionWord we a w).toNat = we.toNat * 2 ^ 36 + a.toNat * 2 ^ 32 + w.toNat := by
  have hw := w.isLt
  have ha := a.isLt
  change (BitVec.ofBool we ++ a ++ w).toNat = _
  rw [BitVec.toNat_append, BitVec.toNat_append, BitVec.toNat_ofBool, ← Nat.shiftLeft_add_eq_or_of_lt hw,
    ← Nat.shiftLeft_add_eq_or_of_lt ha, Nat.shiftLeft_eq, Nat.shiftLeft_eq]
  ring

@[simp] theorem weOf_transactionWord (we : Bool) (a : BitVec 4) (w : Word) : weOf (transactionWord we a w) = we := by
  have hw := w.isLt
  have ha := a.isLt
  rw [weOf, ← BitVec.testBit_toNat, transactionWord_toNat, Nat.testBit_eq_decide_div_mod_eq]
  cases we <;> simp <;> omega

@[simp] theorem addrOf_transactionWord (we : Bool) (a : BitVec 4) (w : Word) : addrOf (transactionWord we a w) = a := by
  have hw := w.isLt
  have ha := a.isLt
  apply BitVec.eq_of_toNat_eq
  rw [addrOf, BitVec.extractLsb'_toNat, transactionWord_toNat, Nat.shiftRight_eq_div_pow]
  omega

@[simp] theorem wdataOf_transactionWord (we : Bool) (a : BitVec 4) (w : Word) : wdataOf (transactionWord we a w) = w := by
  have hw := w.isLt
  apply BitVec.eq_of_toNat_eq
  rw [wdataOf, BitVec.extractLsb'_toNat, transactionWord_toNat, Nat.shiftRight_eq_div_pow]
  omega

/-- Every transaction word is put together from its three fields (R51). -/
theorem eq_transactionWord (t : TransactionWord) : t = transactionWord (weOf t) (addrOf t) (wdataOf t) := by
  have ht := t.isLt
  apply BitVec.eq_of_toNat_eq
  rw [transactionWord_toNat, weOf, ← BitVec.testBit_toNat, Nat.testBit_eq_decide_div_mod_eq, addrOf, wdataOf,
    BitVec.extractLsb'_toNat, BitVec.extractLsb'_toNat, Nat.shiftRight_eq_div_pow, Nat.shiftRight_eq_div_pow]
  by_cases h : t.toNat / 2 ^ 36 % 2 = 1
  · simp only [h, decide_true, Bool.toNat_true]; omega
  · simp only [h, decide_false, Bool.toNat_false]; omega

@[simp] theorem decode_write (a : BitVec 4) (w : Word) :
    decode (transactionWord true a w) = decodeWrite (regOfIndex a) w := by
  simp [decode]

@[simp] theorem decode_read (a : BitVec 4) (w : Word) : decode (transactionWord false a w) = .rd (regOfIndex a) := by
  simp [decode]

@[simp] theorem regOfIndex_indexOf (r : Reg) : regOfIndex (indexOf r) = r := by
  cases r with
  | K i j => cases i <;> cases j <;> rfl
  | INV i j => cases i <;> cases j <;> rfl
  | V j => cases j <;> rfl
  | C j => cases j <;> rfl
  | _ => rfl

@[simp] theorem decode_readOf (r : Reg) : decode (readOf r) = .rd r := by simp [readOf]

@[simp] theorem decode_writeOf (r : Reg) (w : Word) : decode (writeOf r w) = decodeWrite r w := by simp [writeOf]

/-- Masking a word that is put together from its fields masks each field. -/
theorem transactionWord_and (we we' : Bool) (a a' : BitVec 4) (w w' : Word) :
    transactionWord we a w &&& transactionWord we' a' w' = transactionWord (we && we') (a &&& a') (w &&& w') := by
  change (BitVec.ofBool we ++ a ++ w) &&& (BitVec.ofBool we' ++ a' ++ w') = BitVec.ofBool (we && we') ++ (a &&& a') ++ (w &&& w')
  rw [BitVec.and_append, BitVec.and_append]
  cases we <;> cases we' <;> rfl

/-- Selecting a row, field by field (R58). -/
theorem selects_transactionWord (r : OpcodeRow) (we : Bool) (a : BitVec 4) (w : Word) :
    r.selects (transactionWord we a w) = ((we && weOf r.mask) == weOf r.fixed && (a &&& addrOf r.mask) == addrOf r.fixed &&
      (w &&& wdataOf r.mask) == wdataOf r.fixed) := by
  rw [OpcodeRow.selects, eq_transactionWord r.mask, eq_transactionWord r.fixed, transactionWord_and, Bool.eq_iff_iff]
  simp only [weOf_transactionWord, addrOf_transactionWord, wdataOf_transactionWord, decide_eq_true_eq, Bool.and_eq_true,
    beq_iff_eq]
  constructor
  · intro h
    have h1 := congrArg weOf h
    have h2 := congrArg addrOf h
    have h3 := congrArg wdataOf h
    simp only [weOf_transactionWord, addrOf_transactionWord, wdataOf_transactionWord] at h1 h2 h3
    exact ⟨⟨h1, h2⟩, h3⟩
  · rintro ⟨⟨h1, h2⟩, h3⟩
    rw [h1, h2, h3]

end Sys2Proof
end

