-- ==== Sys2Proof/Laws/State.lean ====
section
/-! SUPPORT. What each shared update does to each field of State, one lemma per field per update. -/

namespace Sys2Proof.Machine

variable (s : State)

@[simp] theorem clearFlags_K : (clearFlags s).K = s.K := rfl
@[simp] theorem clearFlags_V : (clearFlags s).V = s.V := rfl
@[simp] theorem clearFlags_C : (clearFlags s).C = s.C := rfl
@[simp] theorem clearFlags_INV : (clearFlags s).INV = s.INV := rfl
@[simp] theorem clearFlags_DET : (clearFlags s).DET = s.DET := rfl
@[simp] theorem clearFlags_DINV : (clearFlags s).DINV = s.DINV := rfl
@[simp] theorem clearFlags_CVAL : (clearFlags s).CVAL = false := rfl
@[simp] theorem clearFlags_DVAL : (clearFlags s).DVAL = false := rfl
@[simp] theorem clearFlags_NVAL : (clearFlags s).NVAL = false := rfl
@[simp] theorem clearFlags_MVAL : (clearFlags s).MVAL = false := rfl
@[simp] theorem clearFlags_NI : (clearFlags s).NI = false := rfl
@[simp] theorem clearFlags_CAUSE : (clearFlags s).CAUSE = s.CAUSE := rfl
@[simp] theorem clearFlags_requests : (clearFlags s).requests = s.requests := rfl
@[simp] theorem clearFlags_response : (clearFlags s).response = s.response := rfl

@[simp] theorem clearCval_K : (clearCval s).K = s.K := rfl
@[simp] theorem clearCval_V : (clearCval s).V = s.V := rfl
@[simp] theorem clearCval_C : (clearCval s).C = s.C := rfl
@[simp] theorem clearCval_INV : (clearCval s).INV = s.INV := rfl
@[simp] theorem clearCval_DET : (clearCval s).DET = s.DET := rfl
@[simp] theorem clearCval_DINV : (clearCval s).DINV = s.DINV := rfl
@[simp] theorem clearCval_CVAL : (clearCval s).CVAL = false := rfl
@[simp] theorem clearCval_DVAL : (clearCval s).DVAL = s.DVAL := rfl
@[simp] theorem clearCval_NVAL : (clearCval s).NVAL = s.NVAL := rfl
@[simp] theorem clearCval_MVAL : (clearCval s).MVAL = s.MVAL := rfl
@[simp] theorem clearCval_NI : (clearCval s).NI = s.NI := rfl
@[simp] theorem clearCval_CAUSE : (clearCval s).CAUSE = s.CAUSE := rfl
@[simp] theorem clearCval_requests : (clearCval s).requests = s.requests := rfl
@[simp] theorem clearCval_response : (clearCval s).response = s.response := rfl

@[simp] theorem markNotInvertible_K : (markNotInvertible s).K = s.K := rfl
@[simp] theorem markNotInvertible_V : (markNotInvertible s).V = s.V := rfl
@[simp] theorem markNotInvertible_C : (markNotInvertible s).C = s.C := rfl
@[simp] theorem markNotInvertible_INV : (markNotInvertible s).INV = s.INV := rfl
@[simp] theorem markNotInvertible_DET : (markNotInvertible s).DET = s.DET := rfl
@[simp] theorem markNotInvertible_DINV : (markNotInvertible s).DINV = s.DINV := rfl
@[simp] theorem markNotInvertible_CVAL : (markNotInvertible s).CVAL = s.CVAL := rfl
@[simp] theorem markNotInvertible_DVAL : (markNotInvertible s).DVAL = s.DVAL := rfl
@[simp] theorem markNotInvertible_NVAL : (markNotInvertible s).NVAL = false := rfl
@[simp] theorem markNotInvertible_MVAL : (markNotInvertible s).MVAL = s.MVAL := rfl
@[simp] theorem markNotInvertible_NI : (markNotInvertible s).NI = true := rfl
@[simp] theorem markNotInvertible_CAUSE : (markNotInvertible s).CAUSE = s.CAUSE := rfl
@[simp] theorem markNotInvertible_requests : (markNotInvertible s).requests = s.requests := rfl
@[simp] theorem markNotInvertible_response : (markNotInvertible s).response = s.response := rfl

@[simp] theorem raise_K (e : Exc) : (raise e s).K = s.K := rfl
@[simp] theorem raise_V (e : Exc) : (raise e s).V = s.V := rfl
@[simp] theorem raise_C (e : Exc) : (raise e s).C = s.C := rfl
@[simp] theorem raise_INV (e : Exc) : (raise e s).INV = s.INV := rfl
@[simp] theorem raise_DET (e : Exc) : (raise e s).DET = s.DET := rfl
@[simp] theorem raise_DINV (e : Exc) : (raise e s).DINV = s.DINV := rfl
@[simp] theorem raise_CVAL (e : Exc) : (raise e s).CVAL = s.CVAL := rfl
@[simp] theorem raise_DVAL (e : Exc) : (raise e s).DVAL = s.DVAL := rfl
@[simp] theorem raise_NVAL (e : Exc) : (raise e s).NVAL = s.NVAL := rfl
@[simp] theorem raise_MVAL (e : Exc) : (raise e s).MVAL = s.MVAL := rfl
@[simp] theorem raise_NI (e : Exc) : (raise e s).NI = s.NI := rfl
@[simp] theorem raise_CAUSE (e : Exc) : (raise e s).CAUSE = e.code := rfl
@[simp] theorem raise_requests (e : Exc) : (raise e s).requests = s.requests := rfl
@[simp] theorem raise_response (e : Exc) : (raise e s).response = s.response := rfl

@[simp] theorem acknowledge_K : (acknowledge s).K = s.K := rfl
@[simp] theorem acknowledge_V : (acknowledge s).V = s.V := rfl
@[simp] theorem acknowledge_C : (acknowledge s).C = s.C := rfl
@[simp] theorem acknowledge_INV : (acknowledge s).INV = s.INV := rfl
@[simp] theorem acknowledge_DET : (acknowledge s).DET = s.DET := rfl
@[simp] theorem acknowledge_DINV : (acknowledge s).DINV = s.DINV := rfl
@[simp] theorem acknowledge_CVAL : (acknowledge s).CVAL = s.CVAL := rfl
@[simp] theorem acknowledge_DVAL : (acknowledge s).DVAL = s.DVAL := rfl
@[simp] theorem acknowledge_NVAL : (acknowledge s).NVAL = s.NVAL := rfl
@[simp] theorem acknowledge_MVAL : (acknowledge s).MVAL = s.MVAL := rfl
@[simp] theorem acknowledge_NI : (acknowledge s).NI = s.NI := rfl
@[simp] theorem acknowledge_CAUSE : (acknowledge s).CAUSE = 0 := rfl
@[simp] theorem acknowledge_requests : (acknowledge s).requests = s.requests := rfl
@[simp] theorem acknowledge_response : (acknowledge s).response = s.response := rfl

@[simp] theorem writeKey_K (i j : Bool) (w : Word) : (writeKey i j w s).K = setEntry s.K i j w := rfl
@[simp] theorem writeKey_V (i j : Bool) (w : Word) : (writeKey i j w s).V = s.V := rfl
@[simp] theorem writeKey_C (i j : Bool) (w : Word) : (writeKey i j w s).C = s.C := rfl
@[simp] theorem writeKey_INV (i j : Bool) (w : Word) : (writeKey i j w s).INV = s.INV := rfl
@[simp] theorem writeKey_DET (i j : Bool) (w : Word) : (writeKey i j w s).DET = s.DET := rfl
@[simp] theorem writeKey_DINV (i j : Bool) (w : Word) : (writeKey i j w s).DINV = s.DINV := rfl
@[simp] theorem writeKey_CVAL (i j : Bool) (w : Word) : (writeKey i j w s).CVAL = s.CVAL := rfl
@[simp] theorem writeKey_DVAL (i j : Bool) (w : Word) : (writeKey i j w s).DVAL = s.DVAL := rfl
@[simp] theorem writeKey_NVAL (i j : Bool) (w : Word) : (writeKey i j w s).NVAL = s.NVAL := rfl
@[simp] theorem writeKey_MVAL (i j : Bool) (w : Word) : (writeKey i j w s).MVAL = s.MVAL := rfl
@[simp] theorem writeKey_NI (i j : Bool) (w : Word) : (writeKey i j w s).NI = s.NI := rfl
@[simp] theorem writeKey_CAUSE (i j : Bool) (w : Word) : (writeKey i j w s).CAUSE = s.CAUSE := rfl
@[simp] theorem writeKey_requests (i j : Bool) (w : Word) : (writeKey i j w s).requests = s.requests := rfl
@[simp] theorem writeKey_response (i j : Bool) (w : Word) : (writeKey i j w s).response = s.response := rfl

@[simp] theorem writeInput_K (j : Bool) (w : Word) : (writeInput j w s).K = s.K := rfl
@[simp] theorem writeInput_V (j : Bool) (w : Word) : (writeInput j w s).V = setComponent s.V j w := rfl
@[simp] theorem writeInput_C (j : Bool) (w : Word) : (writeInput j w s).C = s.C := rfl
@[simp] theorem writeInput_INV (j : Bool) (w : Word) : (writeInput j w s).INV = s.INV := rfl
@[simp] theorem writeInput_DET (j : Bool) (w : Word) : (writeInput j w s).DET = s.DET := rfl
@[simp] theorem writeInput_DINV (j : Bool) (w : Word) : (writeInput j w s).DINV = s.DINV := rfl
@[simp] theorem writeInput_CVAL (j : Bool) (w : Word) : (writeInput j w s).CVAL = s.CVAL := rfl
@[simp] theorem writeInput_DVAL (j : Bool) (w : Word) : (writeInput j w s).DVAL = s.DVAL := rfl
@[simp] theorem writeInput_NVAL (j : Bool) (w : Word) : (writeInput j w s).NVAL = s.NVAL := rfl
@[simp] theorem writeInput_MVAL (j : Bool) (w : Word) : (writeInput j w s).MVAL = s.MVAL := rfl
@[simp] theorem writeInput_NI (j : Bool) (w : Word) : (writeInput j w s).NI = s.NI := rfl
@[simp] theorem writeInput_CAUSE (j : Bool) (w : Word) : (writeInput j w s).CAUSE = s.CAUSE := rfl
@[simp] theorem writeInput_requests (j : Bool) (w : Word) : (writeInput j w s).requests = s.requests := rfl
@[simp] theorem writeInput_response (j : Bool) (w : Word) : (writeInput j w s).response = s.response := rfl

@[simp] theorem writeOutput_K (c : Vec2 Int) : (writeOutput c s).K = s.K := rfl
@[simp] theorem writeOutput_V (c : Vec2 Int) : (writeOutput c s).V = s.V := rfl
@[simp] theorem writeOutput_C (c : Vec2 Int) : (writeOutput c s).C = mapVec zext32 c := rfl
@[simp] theorem writeOutput_INV (c : Vec2 Int) : (writeOutput c s).INV = s.INV := rfl
@[simp] theorem writeOutput_DET (c : Vec2 Int) : (writeOutput c s).DET = s.DET := rfl
@[simp] theorem writeOutput_DINV (c : Vec2 Int) : (writeOutput c s).DINV = s.DINV := rfl
@[simp] theorem writeOutput_CVAL (c : Vec2 Int) : (writeOutput c s).CVAL = true := rfl
@[simp] theorem writeOutput_DVAL (c : Vec2 Int) : (writeOutput c s).DVAL = s.DVAL := rfl
@[simp] theorem writeOutput_NVAL (c : Vec2 Int) : (writeOutput c s).NVAL = s.NVAL := rfl
@[simp] theorem writeOutput_MVAL (c : Vec2 Int) : (writeOutput c s).MVAL = s.MVAL := rfl
@[simp] theorem writeOutput_NI (c : Vec2 Int) : (writeOutput c s).NI = s.NI := rfl
@[simp] theorem writeOutput_CAUSE (c : Vec2 Int) : (writeOutput c s).CAUSE = s.CAUSE := rfl
@[simp] theorem writeOutput_requests (c : Vec2 Int) : (writeOutput c s).requests = s.requests := rfl
@[simp] theorem writeOutput_response (c : Vec2 Int) : (writeOutput c s).response = s.response := rfl

@[simp] theorem writeDet_K (d : Int) : (writeDet d s).K = s.K := rfl
@[simp] theorem writeDet_V (d : Int) : (writeDet d s).V = s.V := rfl
@[simp] theorem writeDet_C (d : Int) : (writeDet d s).C = s.C := rfl
@[simp] theorem writeDet_INV (d : Int) : (writeDet d s).INV = s.INV := rfl
@[simp] theorem writeDet_DET (d : Int) : (writeDet d s).DET = zext32 d := rfl
@[simp] theorem writeDet_DINV (d : Int) : (writeDet d s).DINV = s.DINV := rfl
@[simp] theorem writeDet_CVAL (d : Int) : (writeDet d s).CVAL = s.CVAL := rfl
@[simp] theorem writeDet_DVAL (d : Int) : (writeDet d s).DVAL = true := rfl
@[simp] theorem writeDet_NVAL (d : Int) : (writeDet d s).NVAL = s.NVAL := rfl
@[simp] theorem writeDet_MVAL (d : Int) : (writeDet d s).MVAL = s.MVAL := rfl
@[simp] theorem writeDet_NI (d : Int) : (writeDet d s).NI = s.NI := rfl
@[simp] theorem writeDet_CAUSE (d : Int) : (writeDet d s).CAUSE = s.CAUSE := rfl
@[simp] theorem writeDet_requests (d : Int) : (writeDet d s).requests = s.requests := rfl
@[simp] theorem writeDet_response (d : Int) : (writeDet d s).response = s.response := rfl

@[simp] theorem writeDinv_K (q : Int) : (writeDinv q s).K = s.K := rfl
@[simp] theorem writeDinv_V (q : Int) : (writeDinv q s).V = s.V := rfl
@[simp] theorem writeDinv_C (q : Int) : (writeDinv q s).C = s.C := rfl
@[simp] theorem writeDinv_INV (q : Int) : (writeDinv q s).INV = s.INV := rfl
@[simp] theorem writeDinv_DET (q : Int) : (writeDinv q s).DET = s.DET := rfl
@[simp] theorem writeDinv_DINV (q : Int) : (writeDinv q s).DINV = zext32 q := rfl
@[simp] theorem writeDinv_CVAL (q : Int) : (writeDinv q s).CVAL = s.CVAL := rfl
@[simp] theorem writeDinv_DVAL (q : Int) : (writeDinv q s).DVAL = s.DVAL := rfl
@[simp] theorem writeDinv_NVAL (q : Int) : (writeDinv q s).NVAL = true := rfl
@[simp] theorem writeDinv_MVAL (q : Int) : (writeDinv q s).MVAL = s.MVAL := rfl
@[simp] theorem writeDinv_NI (q : Int) : (writeDinv q s).NI = false := rfl
@[simp] theorem writeDinv_CAUSE (q : Int) : (writeDinv q s).CAUSE = s.CAUSE := rfl
@[simp] theorem writeDinv_requests (q : Int) : (writeDinv q s).requests = s.requests := rfl
@[simp] theorem writeDinv_response (q : Int) : (writeDinv q s).response = s.response := rfl

@[simp] theorem writeInverse_K (A : Mat2 Int) : (writeInverse A s).K = s.K := rfl
@[simp] theorem writeInverse_V (A : Mat2 Int) : (writeInverse A s).V = s.V := rfl
@[simp] theorem writeInverse_C (A : Mat2 Int) : (writeInverse A s).C = s.C := rfl
@[simp] theorem writeInverse_INV (A : Mat2 Int) : (writeInverse A s).INV = mapMat zext32 A := rfl
@[simp] theorem writeInverse_DET (A : Mat2 Int) : (writeInverse A s).DET = s.DET := rfl
@[simp] theorem writeInverse_DINV (A : Mat2 Int) : (writeInverse A s).DINV = s.DINV := rfl
@[simp] theorem writeInverse_CVAL (A : Mat2 Int) : (writeInverse A s).CVAL = s.CVAL := rfl
@[simp] theorem writeInverse_DVAL (A : Mat2 Int) : (writeInverse A s).DVAL = s.DVAL := rfl
@[simp] theorem writeInverse_NVAL (A : Mat2 Int) : (writeInverse A s).NVAL = s.NVAL := rfl
@[simp] theorem writeInverse_MVAL (A : Mat2 Int) : (writeInverse A s).MVAL = true := rfl
@[simp] theorem writeInverse_NI (A : Mat2 Int) : (writeInverse A s).NI = s.NI := rfl
@[simp] theorem writeInverse_CAUSE (A : Mat2 Int) : (writeInverse A s).CAUSE = s.CAUSE := rfl
@[simp] theorem writeInverse_requests (A : Mat2 Int) : (writeInverse A s).requests = s.requests := rfl
@[simp] theorem writeInverse_response (A : Mat2 Int) : (writeInverse A s).response = s.response := rfl

@[simp] theorem clearResults_K : (clearResults s).K = s.K := rfl
@[simp] theorem clearResults_V : (clearResults s).V = s.V := rfl
@[simp] theorem clearResults_C : (clearResults s).C = ⟨0, 0⟩ := rfl
@[simp] theorem clearResults_INV : (clearResults s).INV = ⟨0, 0, 0, 0⟩ := rfl
@[simp] theorem clearResults_DET : (clearResults s).DET = 0 := rfl
@[simp] theorem clearResults_DINV : (clearResults s).DINV = 0 := rfl
@[simp] theorem clearResults_CVAL : (clearResults s).CVAL = s.CVAL := rfl
@[simp] theorem clearResults_DVAL : (clearResults s).DVAL = s.DVAL := rfl
@[simp] theorem clearResults_NVAL : (clearResults s).NVAL = s.NVAL := rfl
@[simp] theorem clearResults_MVAL : (clearResults s).MVAL = s.MVAL := rfl
@[simp] theorem clearResults_NI : (clearResults s).NI = s.NI := rfl
@[simp] theorem clearResults_CAUSE : (clearResults s).CAUSE = s.CAUSE := rfl
@[simp] theorem clearResults_requests : (clearResults s).requests = s.requests := rfl
@[simp] theorem clearResults_response : (clearResults s).response = s.response := rfl

@[simp] theorem accept_K (rest : List Event) : (accept rest s).K = s.K := rfl
@[simp] theorem accept_V (rest : List Event) : (accept rest s).V = s.V := rfl
@[simp] theorem accept_C (rest : List Event) : (accept rest s).C = s.C := rfl
@[simp] theorem accept_INV (rest : List Event) : (accept rest s).INV = s.INV := rfl
@[simp] theorem accept_DET (rest : List Event) : (accept rest s).DET = s.DET := rfl
@[simp] theorem accept_DINV (rest : List Event) : (accept rest s).DINV = s.DINV := rfl
@[simp] theorem accept_CVAL (rest : List Event) : (accept rest s).CVAL = s.CVAL := rfl
@[simp] theorem accept_DVAL (rest : List Event) : (accept rest s).DVAL = s.DVAL := rfl
@[simp] theorem accept_NVAL (rest : List Event) : (accept rest s).NVAL = s.NVAL := rfl
@[simp] theorem accept_MVAL (rest : List Event) : (accept rest s).MVAL = s.MVAL := rfl
@[simp] theorem accept_NI (rest : List Event) : (accept rest s).NI = s.NI := rfl
@[simp] theorem accept_CAUSE (rest : List Event) : (accept rest s).CAUSE = s.CAUSE := rfl
@[simp] theorem accept_requests (rest : List Event) : (accept rest s).requests = rest := rfl
@[simp] theorem accept_response (rest : List Event) : (accept rest s).response = some 0 := rfl

@[simp] theorem respond_K (w : Word) : (respond w s).K = s.K := rfl
@[simp] theorem respond_V (w : Word) : (respond w s).V = s.V := rfl
@[simp] theorem respond_C (w : Word) : (respond w s).C = s.C := rfl
@[simp] theorem respond_INV (w : Word) : (respond w s).INV = s.INV := rfl
@[simp] theorem respond_DET (w : Word) : (respond w s).DET = s.DET := rfl
@[simp] theorem respond_DINV (w : Word) : (respond w s).DINV = s.DINV := rfl
@[simp] theorem respond_CVAL (w : Word) : (respond w s).CVAL = s.CVAL := rfl
@[simp] theorem respond_DVAL (w : Word) : (respond w s).DVAL = s.DVAL := rfl
@[simp] theorem respond_NVAL (w : Word) : (respond w s).NVAL = s.NVAL := rfl
@[simp] theorem respond_MVAL (w : Word) : (respond w s).MVAL = s.MVAL := rfl
@[simp] theorem respond_NI (w : Word) : (respond w s).NI = s.NI := rfl
@[simp] theorem respond_CAUSE (w : Word) : (respond w s).CAUSE = s.CAUSE := rfl
@[simp] theorem respond_requests (w : Word) : (respond w s).requests = s.requests := rfl
@[simp] theorem respond_response (w : Word) : (respond w s).response = some w := rfl

@[simp] theorem present_K (e : Event) : (present e s).K = s.K := rfl
@[simp] theorem present_V (e : Event) : (present e s).V = s.V := rfl
@[simp] theorem present_C (e : Event) : (present e s).C = s.C := rfl
@[simp] theorem present_INV (e : Event) : (present e s).INV = s.INV := rfl
@[simp] theorem present_DET (e : Event) : (present e s).DET = s.DET := rfl
@[simp] theorem present_DINV (e : Event) : (present e s).DINV = s.DINV := rfl
@[simp] theorem present_CVAL (e : Event) : (present e s).CVAL = s.CVAL := rfl
@[simp] theorem present_DVAL (e : Event) : (present e s).DVAL = s.DVAL := rfl
@[simp] theorem present_NVAL (e : Event) : (present e s).NVAL = s.NVAL := rfl
@[simp] theorem present_MVAL (e : Event) : (present e s).MVAL = s.MVAL := rfl
@[simp] theorem present_NI (e : Event) : (present e s).NI = s.NI := rfl
@[simp] theorem present_CAUSE (e : Event) : (present e s).CAUSE = s.CAUSE := rfl
@[simp] theorem present_requests (e : Event) : (present e s).requests = e :: s.requests := rfl
@[simp] theorem present_response (e : Event) : (present e s).response = s.response := rfl

@[simp] theorem applyReset_K (rest : List Event) : (applyReset rest s).K = State.reset.K := rfl
@[simp] theorem applyReset_V (rest : List Event) : (applyReset rest s).V = State.reset.V := rfl
@[simp] theorem applyReset_C (rest : List Event) : (applyReset rest s).C = State.reset.C := rfl
@[simp] theorem applyReset_INV (rest : List Event) : (applyReset rest s).INV = State.reset.INV := rfl
@[simp] theorem applyReset_DET (rest : List Event) : (applyReset rest s).DET = State.reset.DET := rfl
@[simp] theorem applyReset_DINV (rest : List Event) : (applyReset rest s).DINV = State.reset.DINV := rfl
@[simp] theorem applyReset_CVAL (rest : List Event) : (applyReset rest s).CVAL = State.reset.CVAL := rfl
@[simp] theorem applyReset_DVAL (rest : List Event) : (applyReset rest s).DVAL = State.reset.DVAL := rfl
@[simp] theorem applyReset_NVAL (rest : List Event) : (applyReset rest s).NVAL = State.reset.NVAL := rfl
@[simp] theorem applyReset_MVAL (rest : List Event) : (applyReset rest s).MVAL = State.reset.MVAL := rfl
@[simp] theorem applyReset_NI (rest : List Event) : (applyReset rest s).NI = State.reset.NI := rfl
@[simp] theorem applyReset_CAUSE (rest : List Event) : (applyReset rest s).CAUSE = State.reset.CAUSE := rfl
@[simp] theorem applyReset_requests (rest : List Event) : (applyReset rest s).requests = rest := rfl
@[simp] theorem applyReset_response (rest : List Event) : (applyReset rest s).response = State.reset.response := rfl

@[simp] theorem reset_K : State.reset.K = ⟨0, 0, 0, 0⟩ := rfl
@[simp] theorem reset_V : State.reset.V = ⟨0, 0⟩ := rfl
@[simp] theorem reset_C : State.reset.C = ⟨0, 0⟩ := rfl
@[simp] theorem reset_INV : State.reset.INV = ⟨0, 0, 0, 0⟩ := rfl
@[simp] theorem reset_DET : State.reset.DET = 0 := rfl
@[simp] theorem reset_DINV : State.reset.DINV = 0 := rfl
@[simp] theorem reset_CVAL : State.reset.CVAL = false := rfl
@[simp] theorem reset_DVAL : State.reset.DVAL = false := rfl
@[simp] theorem reset_NVAL : State.reset.NVAL = false := rfl
@[simp] theorem reset_MVAL : State.reset.MVAL = false := rfl
@[simp] theorem reset_NI : State.reset.NI = false := rfl
@[simp] theorem reset_CAUSE : State.reset.CAUSE = 0 := rfl
@[simp] theorem reset_requests : State.reset.requests = [] := rfl
@[simp] theorem reset_response : State.reset.response = none := rfl

end Sys2Proof.Machine
end

