-- ==== Sys2Proof/Laws/Operands.lean ====
section
/-! SUPPORT. The small laws of words as integers, of `emod` and of the two shapes. -/

namespace Sys2Proof.Machine

theorem emod_eq (x : Int) : emod x = x % 26 := rfl

theorem emod_nonneg (x : Int) : 0 ≤ emod x := by rw [emod_eq]; omega

theorem emod_lt (x : Int) : emod x < 26 := by rw [emod_eq]; omega

theorem emod_of_residue {x : Int} (h0 : 0 ≤ x) (h1 : x < 26) : emod x = x := by rw [emod_eq]; omega

@[simp] theorem emod_emod (x : Int) : emod (emod x) = emod x := by simp only [emod_eq]; omega

/-- Equal residues are what `emod` sees (R68). -/
theorem emod_congr {x y : Int} (h : x ≡ y [ZMOD 26]) : emod x = emod y := h

theorem emod_modEq (x : Int) : emod x ≡ x [ZMOD 26] := Int.mod_modEq x 26

theorem uint_nonneg (w : Word) : 0 ≤ uint w := Int.natCast_nonneg _

theorem uint_inj {v w : Word} (h : uint v = uint w) : v = w := BitVec.eq_of_toNat_eq (Int.ofNat_inj.mp h)

@[simp] theorem uint_ofNat (n : Nat) (h : n < 2 ^ 32) : uint (BitVec.ofNat 32 n) = n := by
  simp only [uint, BitVec.toNat_ofNat]; omega

theorem zext32_natCast (n : Nat) : zext32 (n : Int) = BitVec.ofNat 32 n := by simp [zext32, BitVec.ofInt_natCast]

/-- A non-negative integer below 2^32 is the value of its word. -/
theorem uint_zext32 {x : Int} (h0 : 0 ≤ x) (h1 : x < 4294967296) : uint (zext32 x) = x := by
  obtain ⟨n, rfl⟩ := Int.eq_ofNat_of_zero_le h0
  rw [zext32_natCast, uint_ofNat n (by omega)]

@[simp] theorem uint_zext32_emod (x : Int) : uint (zext32 (emod x)) = emod x :=
  uint_zext32 (emod_nonneg x) (by have := emod_lt x; omega)

@[simp] theorem zext32_uint (w : Word) : zext32 (uint w) = w := by
  rw [uint, zext32_natCast, BitVec.ofNat_toNat, BitVec.setWidth_eq]

theorem isres_iff (w : Word) : isres w = true ↔ w.toNat < 26 := by
  simp [isres, uint, Config.modulus]

theorem inRange_iff (v : Vec2 Word) : inRange v = true ↔ v.x0.toNat < 26 ∧ v.x1.toNat < 26 := by
  simp [inRange, isres_iff]

theorem inRange_eq_false_iff (v : Vec2 Word) : inRange v = false ↔ 26 ≤ v.x0.toNat ∨ 26 ≤ v.x1.toNat := by
  rw [← Bool.not_eq_true, inRange_iff]; omega

@[simp] theorem getEntry_setEntry {α : Type} (A : Mat2 α) (i j : Bool) (x : α) : getEntry (setEntry A i j x) i j = x := by
  cases i <;> cases j <;> rfl

theorem getEntry_setEntry_of_ne {α : Type} (A : Mat2 α) {i j i' j' : Bool} (x : α) (h : i' ≠ i ∨ j' ≠ j) :
    getEntry (setEntry A i j x) i' j' = getEntry A i' j' := by
  cases i <;> cases j <;> cases i' <;> cases j' <;> first | rfl | simp at h

@[simp] theorem getComponent_setComponent {α : Type} (v : Vec2 α) (j : Bool) (x : α) :
    getComponent (setComponent v j x) j = x := by
  cases j <;> rfl

@[simp] theorem getComponent_setComponent_not {α : Type} (v : Vec2 α) (j : Bool) (x : α) :
    getComponent (setComponent v j x) (!j) = getComponent v (!j) := by
  cases j <;> rfl

@[simp] theorem setEntry_setEntry {α : Type} (A : Mat2 α) (i j : Bool) (x : α) :
    setEntry (setEntry A i j x) i j x = setEntry A i j x := by
  cases i <;> cases j <;> rfl

@[simp] theorem setComponent_setComponent {α : Type} (v : Vec2 α) (j : Bool) (x : α) :
    setComponent (setComponent v j x) j x = setComponent v j x := by
  cases j <;> rfl

theorem kr_modEq (w : Word) : reducedEntry w ≡ sint w [ZMOD 26] := emod_modEq _

@[simp] theorem kr_m00 (K : Mat2 Word) : (kr K).m00 = emod (sint K.m00) := rfl
@[simp] theorem kr_m01 (K : Mat2 Word) : (kr K).m01 = emod (sint K.m01) := rfl
@[simp] theorem kr_m10 (K : Mat2 Word) : (kr K).m10 = emod (sint K.m10) := rfl
@[simp] theorem kr_m11 (K : Mat2 Word) : (kr K).m11 = emod (sint K.m11) := rfl

end Sys2Proof.Machine
end

