-- ==== Sys2Proof/Laws/Units.lean ====
section
/-! SUPPORT. What the three units answer, in terms of the raw key entries (40_arithmetic.md R68). -/

namespace Sys2Proof.Machine

/-- The product may be taken over the raw key entries (R68, R74 (b)). -/
theorem mvmul_kr (K : Mat2 Word) (v : Vec2 Int) : mvmul (kr K) v =
    ⟨emod (sint K.m00 * v.x0 + sint K.m01 * v.x1), emod (sint K.m10 * v.x0 + sint K.m11 * v.x1)⟩ := by
  have row (a b : Int) : emod (emod a * v.x0 + emod b * v.x1) = emod (a * v.x0 + b * v.x1) :=
    emod_congr (((emod_modEq a).mul_right _).add ((emod_modEq b).mul_right _))
  simp [mvmul, row]

/-- The determinant may be taken over the raw key entries (R75). -/
theorem detf_eq (K : Mat2 Word) : detf K = emod (sint K.m00 * sint K.m11 - sint K.m01 * sint K.m10) :=
  emod_congr (((emod_modEq _).mul (emod_modEq _)).sub ((emod_modEq _).mul (emod_modEq _)))

/-- The inverse matrix may be taken over the raw key entries (R82). -/
theorem adjinv_eq (K : Mat2 Word) (q : Int) : adjinv K q =
    ⟨emod (q * sint K.m11), emod (q * -sint K.m01), emod (q * -sint K.m10), emod (q * sint K.m00)⟩ := by
  have diag (a : Int) : emod (q * emod a) = emod (q * a) := emod_congr ((emod_modEq a).mul_left q)
  have off (a : Int) : emod (q * -emod a) = emod (q * -a) := emod_congr ((emod_modEq a).neg.mul_left q)
  simp only [adjinv, kr_m00, kr_m01, kr_m10, kr_m11, diag, off]

/-- The candidates are exactly 1 to 25 (R78). -/
theorem mem_candidates {i : Int} : i ∈ candidates ↔ 1 ≤ i ∧ i ≤ 25 := by
  simp only [candidates, List.mem_map, List.mem_range']
  constructor
  · rintro ⟨n, ⟨k, hk, rfl⟩, rfl⟩; simp only [Int.ofNat_eq_natCast]; omega
  · rintro ⟨h1, h2⟩; exact ⟨i.toNat, ⟨i.toNat - 1, by omega, by omega⟩, by simp only [Int.ofNat_eq_natCast]; omega⟩

/-- What the search finds is a candidate that inverts `d`. -/
theorem invsearch_some {d q : Int} (h : invsearch d = some q) : 1 ≤ q ∧ q ≤ 25 ∧ emod (d * q) = 1 := by
  have hq := List.find?_some h
  have hm := mem_candidates.mp (List.mem_of_find?_eq_some h)
  exact ⟨hm.1, hm.2, by simpa using hq⟩

/-- When the search finds nothing, no candidate inverts `d`. -/
theorem invsearch_none {d : Int} : invsearch d = none ↔ ∀ i ∈ candidates, emod (d * i) ≠ 1 := by
  simp [invsearch, List.find?_eq_none]

/-- Two inverses of one integer are congruent mod 26 (R81 (a)). -/
theorem inverse_unique {d p q : Int} (hp : emod (d * p) = 1) (hq : emod (d * q) = 1) : p ≡ q [ZMOD 26] := by
  have hp' : d * p ≡ 1 [ZMOD 26] := hp
  have hq' : d * q ≡ 1 [ZMOD 26] := hq
  calc p = p * 1 := (mul_one p).symm
    _ ≡ p * (d * q) [ZMOD 26] := (hq'.symm).mul_left p
    _ = d * p * q := by ring
    _ ≡ 1 * q [ZMOD 26] := hp'.mul_right q
    _ = q := one_mul q

/-- The search finds the candidate that inverts `d`, whichever is tried first. -/
theorem invsearch_eq_some {d i : Int} (h1 : 1 ≤ i) (h2 : i ≤ 25) (h : emod (d * i) = 1) : invsearch d = some i := by
  match hs : invsearch d with
  | none => exact absurd h (invsearch_none.mp hs i (mem_candidates.mpr ⟨h1, h2⟩))
  | some q =>
    obtain ⟨hq1, hq2, hq⟩ := invsearch_some hs
    have : q % 26 = i % 26 := inverse_unique hq h
    rw [show q = i by omega]

/-- `invsearch` sees its argument only mod 26. -/
theorem invsearch_emod (d : Int) : invsearch (emod d) = invsearch d := by
  unfold invsearch
  congr 1
  funext i
  rw [emod_congr ((emod_modEq d).mul_right i)]

end Sys2Proof.Machine
end

