-- ==== Sys2Proof/Laws/Exec.lean ====
section
/-! SUPPORT. What each instruction and the step can answer, said once. -/

namespace Sys2Proof.Machine

/-- The equations of `exec` for the instructions that have one case. -/
@[simp] theorem exec_rd (a : Reg) (s : State) : exec (.rd a) s = .next (respond (regRead a s) s) := rfl
@[simp] theorem exec_wrK (i j : Bool) (w : Word) (s : State) :
    exec (.wrK i j w) s = .next (clearFlags (writeKey i j w s)) := rfl
@[simp] theorem exec_wrV (j : Bool) (w : Word) (s : State) :
    exec (.wrV j w) s = .next (clearCval (writeInput j w s)) := rfl
@[simp] theorem exec_wrC (j : Bool) (s : State) : exec (.wrC j) s = .next (raise .illegalAccess s) := rfl
@[simp] theorem exec_wrI (i j : Bool) (s : State) : exec (.wrI i j) s = .next (raise .illegalAccess s) := rfl
@[simp] theorem exec_wrD (j : Bool) (s : State) : exec (.wrD j) s = .next (raise .illegalAccess s) := rfl
@[simp] theorem exec_wrStatus (s : State) : exec .wrStatus s = .next (raise .illegalAccess s) := rfl
@[simp] theorem exec_nop (s : State) : exec .nop s = .next s := rfl
@[simp] theorem exec_clr (s : State) : exec .clr s = .next (acknowledge (clearFlags (clearResults s))) := rfl
@[simp] theorem exec_illegal (w : Word) (s : State) : exec (.illegal w) s = .next (raise .illegalCommand s) := rfl
@[simp] theorem exec_det (s : State) : exec .det s = .next (writeDet (detf s.K) s) := rfl

/-- `ENC`: two cases (R73). -/
theorem exec_enc (s : State) : exec .enc s =
    .next (if inRange s.V then writeOutput (mvmul (kr s.K) (mapVec uint s.V)) s else raise .operandRange s) := by
  simp only [exec, execEnc]; split <;> rfl

/-- `DEC`: three cases (R87). -/
theorem exec_dec (s : State) : exec .dec s =
    .next (if s.MVAL then
        if inRange s.V then writeOutput (mvmul (mapMat uint s.INV) (mapVec uint s.V)) s else raise .operandRange s
      else raise (missingInverse s) s) := by
  simp only [exec, execDec]; split
  · split <;> rfl
  · rfl

/-- The state a search outcome leaves (R80). -/
def afterSearch (o : Option Int) (s : State) : State :=
  match o with
  | some q => writeDinv q s
  | none => raise .notInvertible (markNotInvertible s)

/-- `INVS`: the prerequisite, then the outcome of the search (R80). -/
theorem exec_invs (s : State) : exec .invs s =
    .next (if s.DVAL then afterSearch (invsearch (uint s.DET)) s else raise .sequenceError s) := by
  match hs : invsearch (uint s.DET) with
  | some q => simp only [exec, execInvs, hs, afterSearch]; split <;> rfl
  | none => simp only [exec, execInvs, hs, afterSearch]; split <;> rfl

/-- `MINV`: two cases (R83). -/
theorem exec_minv (s : State) : exec .minv s =
    .next (if s.NVAL then writeInverse (adjinv s.K (uint s.DINV)) s else raise (missingInverse s) s) := by
  simp only [exec, execMinv]; split <;> rfl

/-- The state `INVK` leaves for a search outcome (R85). -/
def afterInvert (o : Option Int) (s : State) : State :=
  match o with
  | some q => writeInverse (adjinv s.K q) (writeDinv q (writeDet (detf s.K) s))
  | none => raise .notInvertible (markNotInvertible (writeDet (detf s.K) s))

/-- `INVK`: the outcome of the search on the key's determinant (R84, R85). -/
theorem exec_invk (s : State) : exec .invk s = .next (afterInvert (invsearch (detf s.K)) s) := by
  match hs : invsearch (detf s.K) with
  | some q => simp only [exec, execInvk, invkey, hs, afterInvert]
  | none => simp only [exec, execInvk, invkey, hs, afterInvert]

/-- An instruction leaves the events to come as they are: only the step takes one (R41). -/
theorem exec_requests {i : Instr} {s t : State} (h : exec i s = .next t) : t.requests = s.requests := by
  cases i <;> simp only [exec_rd, exec_wrK, exec_wrV, exec_wrC, exec_wrI, exec_wrD, exec_wrStatus, exec_nop, exec_clr,
    exec_illegal, exec_det, exec_enc, exec_dec, exec_invs, exec_minv, exec_invk, Host.Outcome.next.injEq] at h <;>
    subst h <;> try simp only [afterSearch, afterInvert]
  all_goals repeat' split
  all_goals rfl

/-- The events to come have no effect on what an instruction does. -/
theorem exec_with_requests {i : Instr} {s t : State} (r : List Event) (h : exec i s = .next t) :
    exec i { s with requests := r } = .next { t with requests := r } := by
  cases i <;> simp only [exec_rd, exec_wrK, exec_wrV, exec_wrC, exec_wrI, exec_wrD, exec_wrStatus, exec_nop, exec_clr,
    exec_illegal, exec_det, exec_enc, exec_dec, exec_invs, exec_minv, exec_invk, Host.Outcome.next.injEq] at h ⊢ <;>
    subst h <;> try simp only [afterSearch, afterInvert, missingInverse]
  case rd a => cases a <;> rfl
  all_goals repeat' split
  all_goals rfl

@[simp] theorem step_idle {s : State} (h : s.requests = []) : step s = .next s := by simp [step, h]

theorem step_reset {s : State} {rest : List Event} (h : s.requests = .reset :: rest) : step s = .next (applyReset rest s) := by
  simp [step, h]

theorem step_transaction {s : State} {t : TransactionWord} {rest : List Event} (h : s.requests = .transaction t :: rest) :
    step s = exec (decode t) (accept rest s) := by
  simp [step, h]

@[simp] theorem step_present (t : TransactionWord) (s : State) :
    step (present (.transaction t) s) = exec (decode t) (accept s.requests s) := rfl

/-- Everything a step that answers a next state can have done. -/
theorem step_cases {s u : State} (h : step s = .next u) :
    (s.requests = [] ∧ u = s) ∨
    (∃ rest, s.requests = .reset :: rest ∧ u = applyReset rest s) ∨
    (∃ t rest, s.requests = .transaction t :: rest ∧ exec (decode t) (accept rest s) = .next u) := by
  match hr : s.requests with
  | [] => rw [step_idle hr] at h; exact .inl ⟨rfl, (Host.Outcome.next.inj h).symm⟩
  | .reset :: rest => rw [step_reset hr] at h; exact .inr (.inl ⟨rest, rfl, (Host.Outcome.next.inj h).symm⟩)
  | .transaction t :: rest => rw [step_transaction hr] at h; exact .inr (.inr ⟨t, rest, rfl, h⟩)

end Sys2Proof.Machine
end

