-- ==== Sys2Proof/Laws/PerInstr.lean ====
section
/-! SUPPORT. Statements made per instruction. -/

namespace Sys2Proof.Laws.MatchesRow

/-- The word of an instruction is a word of its own row of the opcode table (R58), whatever its operands. -/
def Statement (i : Instr) : Prop := i.row.selects (encode i) = true

theorem rd (a : Reg) : Statement (.rd a) := by
  simp [Statement, encode, readOf, selects_transactionWord, Instr.row, weOf, addrOf, wdataOf]
theorem wrK (i j : Bool) (w : Word) : Statement (.wrK i j w) := by
  cases i <;> cases j <;> simp [Statement, encode, writeOf, indexOf, selects_transactionWord, Instr.row, weOf, addrOf, wdataOf]
theorem wrV (j : Bool) (w : Word) : Statement (.wrV j w) := by
  cases j <;> simp [Statement, encode, writeOf, indexOf, selects_transactionWord, Instr.row, weOf, addrOf, wdataOf]
theorem wrC (j : Bool) : Statement (.wrC j) := by cases j <;> rfl
theorem wrI (i j : Bool) : Statement (.wrI i j) := by cases i <;> cases j <;> rfl
theorem wrD (j : Bool) : Statement (.wrD j) := by cases j <;> rfl
theorem wrStatus : Statement .wrStatus := rfl
theorem nop : Statement .nop := rfl
theorem enc : Statement .enc := rfl
theorem det : Statement .det := rfl
theorem invs : Statement .invs := rfl
theorem minv : Statement .minv := rfl
theorem invk : Statement .invk := rfl
theorem dec : Statement .dec := rfl
theorem clr : Statement .clr := rfl
theorem illegal (w : Word) : Statement (.illegal w) := by
  simp [Statement, encode, writeOf, indexOf, selects_transactionWord, Instr.row, weOf, addrOf, wdataOf]

end Sys2Proof.Laws.MatchesRow
end

