-- ==== Sys2Proof/Laws/Port.lean ====
section
/-! SUPPORT. One edge and a sequence of edges, said once. -/

namespace Sys2Proof.Machine

/-- A transaction's response is that of its step. -/
theorem responseOf_of_step {t : TransactionWord} {s u : State} (h : step (present (.transaction t) s) = .next u) :
    responseOf t s = u.response := by
  rw [responseOf, h]

/-- An edge at which nothing takes effect moves only the phase. -/
theorem edge_of_none {i : PortIn} {c : Clocked} (h : eventAt i c = none) : edge i c = .next ⟨c.block, nextPhase i c⟩ := by
  rw [edge, h]

/-- An edge at which an event takes effect performs its step. -/
theorem edge_of_event {i : PortIn} {c : Clocked} {e : Event} {t : State} (h : eventAt i c = some e)
    (hs : step (present e c.block) = .next t) : edge i c = .next ⟨t, nextPhase i c⟩ := by
  simp only [edge, h, hs]

theorem edges_cons {i : PortIn} {ins : List PortIn} {c d : Clocked} (h : edge i c = .next d) :
    edges (i :: ins) c = edges ins d := by
  rw [edges, h]

theorem eventsOf_cons {i : PortIn} {ins : List PortIn} {c d : Clocked} (h : edge i c = .next d) :
    eventsOf (i :: ins) c = (eventAt i c).toList ++ eventsOf ins d := by
  rw [eventsOf, h]

end Sys2Proof.Machine
end

