-- ==== Sys2Proof/Laws/Run.lean ====
section
/-! SUPPORT. A run, one event at a time. -/

namespace Sys2Proof.Machine

/-- The defining equation of a run, for any machine behind the host's interface. -/
theorem run_succ (M : Host.Core) (k : Nat) (s : M.State) : M.run (k + 1) s =
    match M.step s with
    | .next s' => M.run k s'
    | .fault r => .fault r
    | .refused r => .refused r := rfl

/-- A run of one event more: a step, then the run of the rest. -/
theorem core_run_succ (k : Nat) (s t u : State) (h : step s = .next t) (hr : Host.Core.run core k t = .next u) :
    Host.Core.run core (k + 1) s = .next u := by
  have hs : core.step s = .next t := h
  rw [run_succ core k s, hs]
  exact hr

theorem runs_nil {s : State} (h : s.requests = []) : Runs s [] s := by
  cases s; cases h; rfl

/-- An event, then the rest of the list. -/
theorem runs_cons {s t u : State} {e : Event} {es : List Event} (h : step { s with requests := e :: es } = .next t)
    (ht : t.requests = es) (hr : Runs t es u) : Runs s (e :: es) u := by
  refine core_run_succ es.length _ t u h ?_
  have : { t with requests := es } = t := by cases t; cases ht; rfl
  rwa [Runs, this] at hr

/-- A transaction, then the rest of the list. -/
theorem runs_transaction {s t u : State} {w : TransactionWord} {es : List Event}
    (h : exec (decode w) (accept es s) = .next t) (hr : Runs t es u) : Runs s (.transaction w :: es) u :=
  runs_cons h (exec_requests h) hr

end Sys2Proof.Machine
end

