-- ==== Sys2Proof/Laws/Software.lean ====
section
/-! SUPPORT. Which texts the host refuses, said once. -/

namespace Sys2Proof.Machine

/-- Exactly the texts of capitals of even length are not refused. -/
theorem textError_eq_none {t : List Char} :
    textError t = none ↔ (∀ c ∈ t, isCapital c = true) ∧ t.length % 2 = 0 := by
  unfold textError
  cases hf : t.find? (fun c => !isCapital c) with
  | some c =>
    have hm := List.mem_of_find?_eq_some hf
    have hc := List.find?_some hf
    simp only [reduceCtorEq, false_iff, not_and]
    intro h
    simp [h c hm] at hc
  | none =>
    simp only [List.find?_eq_none, Bool.not_eq_true', Bool.not_eq_false] at hf
    simp only [ite_eq_right_iff, reduceCtorEq, imp_false]
    exact ⟨fun h => ⟨hf, by omega⟩, fun h => by omega⟩

/-- A text that is not refused is processed pair by pair. -/
theorem processText_of_accepted {d : Direction} {t : List Char} (s : State) (h : textError t = none) :
    processText d t s = processPairs d t s := by
  rw [processText, h]

end Sys2Proof.Machine
end

