-- ==== Sys2Proof/Tests/Slice0.lean ====
section
/-! SUPPORT. Tests, with results taken from spec/ (95_test_vectors.md unless another file is named), and for every obligation with
hypotheses the states and operands that meet them. -/

namespace Sys2Proof.Tests
open Sys2Proof Sys2Proof.Machine

/-- The next state of an outcome, so that a test can compare one field of it. -/
def nextOf (o : Host.Outcome State Fault Refusal) : Option State :=
  match o with
  | .next s => some s
  | .fault _ => none
  | .refused _ => none

/-- A field of the state after one instruction. -/
def after {α : Type} (f : State → α) (i : Instr) (s : State) : Option α := (nextOf (exec i s)).map f

/-- The reset state with a key. -/
def keyed (a b c d : Word) : State := { State.reset with K := ⟨a, b, c, d⟩ }

/-- A state with an input pair. -/
def fed (p q : Word) (s : State) : State := { s with V := ⟨p, q⟩ }

/-- All four valid flags set: `STATUS` = 0x0000000F (2.9). -/
def flagged : State := { State.reset with CVAL := true, DVAL := true, NVAL := true, MVAL := true }

/-- The key of S1 after `invk` (M1; P2's end state without `V` and `C`). -/
def inverted : State :=
  { keyed 3 3 2 5 with INV := ⟨15, 17, 20, 9⟩, DET := 9, DINV := 3, DVAL := true, NVAL := true, MVAL := true }

/-- A key with no inverse after `invk` (M9). -/
def failed : State := { keyed 2 4 6 8 with DET := 18, DVAL := true, NI := true, CAUSE := 1 }

/-- A state whose next event is a transaction. -/
def offered (we : Bool) (a : BitVec 4) (w : Word) : State := present (.transaction (transactionWord we a w)) State.reset

/-! ## Well-formed instructions -/

theorem test_command_word_is_no_illegal_command : (Instr.illegal 0).wellFormed = false ∧ (Instr.illegal 7).wellFormed = false := by
  decide
theorem test_other_words_are_illegal_commands :
    (Instr.illegal 8).wellFormed = true ∧ (Instr.illegal 0x80000001).wellFormed = true := by decide

/-! ## Decoding (2.9), the words bit by bit from R51: `we`, `addr`, `wdata` -/

theorem test_decode_read_ignores_data : decode 0b0_0000_11011110101011011011111011101111 = .rd (.K false false) := by decide
theorem test_decode_read_i10 : decode 0b0_1010_00000000000000000000000000000000 = .rd (.INV true false) := by decide
theorem test_decode_key_write : decode 0b1_0000_11111111111111111111111111111101 = .wrK false false (-3) := by decide
theorem test_decode_key_write_k10 : decode 0b1_0010_00000000000000000000000000000010 = .wrK true false 2 := by decide
theorem test_decode_input_write : decode 0b1_0101_00000000000000000000000000011010 = .wrV true 26 := by decide
theorem test_decode_output_write : decode 0b1_0111_00000000000000000000000000000001 = .wrC true := by decide
theorem test_decode_inverse_write : decode 0b1_1011_00000000000000000000000000000001 = .wrI true true := by decide
theorem test_decode_dinv_write : decode 0b1_1101_00000000000000000000000000000000 = .wrD true := by decide
theorem test_decode_status_write : decode 0b1_1110_00000000000000000000000000000000 = .wrStatus := by decide
theorem test_decode_nop : decode 0b1_1111_00000000000000000000000000000000 = .nop := by decide
theorem test_decode_enc : decode 0b1_1111_00000000000000000000000000000001 = .enc := by decide
theorem test_decode_det : decode 0b1_1111_00000000000000000000000000000010 = .det := by decide
theorem test_decode_invs : decode 0b1_1111_00000000000000000000000000000011 = .invs := by decide
theorem test_decode_minv : decode 0b1_1111_00000000000000000000000000000100 = .minv := by decide
theorem test_decode_invk : decode 0b1_1111_00000000000000000000000000000101 = .invk := by decide
theorem test_decode_dec : decode 0b1_1111_00000000000000000000000000000110 = .dec := by decide
theorem test_decode_clr : decode 0b1_1111_00000000000000000000000000000111 = .clr := by decide
theorem test_decode_reserved_bits : decode 0b1_1111_00000000000000000000000100000001 = .illegal 257 := by decide
theorem test_decode_top_bit : decode 0b1_1111_10000000000000000000000000000000 = .illegal 0x80000000 := by decide
theorem test_decode_rejects_38_bits :
    readTransactionWord 0x2000000000 = .error .topBitsNotZero ∧ decodeTableWord 40 0x2000000000 = none := by decide
theorem test_table_word_runs_first :
    (nextOf (step (State.reset.withFetchWord 40 0x1300000005))).map (fun s => s.K.m11) = some 5 := by decide

/-! ## Register access (2.9) -/

theorem test_read_key_is_unreduced : after State.response (.rd (.K false true)) (keyed 3 0xFFFFFFFD 2 5) = some (some 0xFFFFFFFD) := by
  decide
theorem test_read_status_of_failed_key : after State.response (.rd .STATUS) failed = some (some 0x112) := by decide
theorem test_key_write_drops_flags :
    after statusWord (.wrK false false 0) flagged = some 0 ∧ after (fun s => s.K.m10) (.wrK true false 7) flagged = some 7 := by decide
theorem test_input_write_drops_cval :
    after statusWord (.wrV false 5) flagged = some 0xE ∧ after State.V (.wrV true 99) flagged = some ⟨0, 99⟩ := by decide
theorem test_output_write_is_illegal : after statusWord (.wrC false) flagged = some 0x50F := by decide
theorem test_inverse_write_is_illegal : after statusWord (.wrI true false) flagged = some 0x50F := by decide
theorem test_det_write_is_illegal : after statusWord (.wrD false) flagged = some 0x50F := by decide
theorem test_status_write_is_illegal : after statusWord .wrStatus flagged = some 0x50F := by decide
theorem test_illegal_command : after statusWord (.illegal 9) flagged = some 0x20F := by decide
theorem test_nop_keeps_status : after statusWord .nop flagged = some 0xF := by decide
theorem test_clr_keeps_key : after statusWord .clr inverted = some 0 ∧ after State.K .clr inverted = some ⟨3, 3, 2, 5⟩ := by decide
theorem test_clr_zeroes_results : after State.INV .clr inverted = some ⟨0, 0, 0, 0⟩ ∧ after State.DINV .clr inverted = some 0 := by decide

/-! ## Residues and commands (2.1, 2.3 to 2.7) -/

theorem test_emod_negative : emod (-625) = 25 ∧ emod (-26) = 0 ∧ emod (-2147483648) = 2 ∧ emod 4294967295 = 21 := by decide

theorem test_enc_negative_key : after State.C .enc (fed 7 4 (keyed (-3) (-3) (-2) (-5))) = some ⟨19, 18⟩ := by decide
theorem test_enc_extreme_key :
    after State.C .enc (fed 25 25 (keyed 0x80000000 0x7FFFFFFF 0x7FFFFFFF 0x80000000)) = some ⟨1, 1⟩ ∧
      after statusWord .enc (fed 0 0xFFFFFFFF inverted) = some 0x30E := by decide
theorem test_det_negative_difference : after State.DET .det (keyed 2 4 6 8) = some 18 := by decide
theorem test_det_extreme_key : after State.DET .det (keyed 0x80000000 0x7FFFFFFF 0x7FFFFFFF 0x80000000) = some 21 := by decide
theorem test_invs_finds : after State.DINV .invs { State.reset with DVAL := true, DET := 9 } = some 3 ∧
    after statusWord .invs { State.reset with DVAL := true, DET := 25 } = some 0x6 := by decide
theorem test_invs_fails : after statusWord .invs { State.reset with DVAL := true, DET := 13 } = some 0x112 ∧
    after statusWord .invs { State.reset with DET := 9 } = some 0x400 := by decide
theorem test_minv_large_key : after State.INV .minv { keyed 100 (-7) 33 2000000000 with DET := 5, DINV := 21, DVAL := true, NVAL := true } =
    some ⟨10, 17, 9, 20⟩ := by decide
theorem test_minv_prerequisite : after statusWord .minv failed = some 0x112 ∧ after statusWord .minv (keyed 1 0 0 1) = some 0x400 := by
  decide
theorem test_invk_asymmetric_key : after State.INV .invk (keyed 5 8 17 3) = some ⟨9, 2, 1, 15⟩ := by decide
theorem test_invk_no_inverse : after (fun s => (statusWord s, s.DET, s.INV)) .invk { keyed 2 4 6 8 with INV := ⟨15, 17, 20, 9⟩ } =
    some (0x112, 18, ⟨15, 17, 20, 9⟩) := by decide
theorem test_dec : after State.C .dec (fed 0 19 inverted) = some ⟨11, 15⟩ := by decide
theorem test_dec_prerequisite_before_range :
    after statusWord .dec (fed 99 0 State.reset) = some 0x400 ∧ after statusWord .dec (fed 26 0 inverted) = some 0x30E := by decide

/-! ## The port at clock edges (70_reset_and_hazards.md R126, R127; 20_memory.md R37) -/

theorem test_reset_in_the_response_cycle_abandons :
    portOut true ⟨fed 0 19 inverted, .responding 0x1F00000006⟩ = ⟨false, none⟩ ∧
      eventAt ⟨true, false, false, 0, 0⟩ ⟨fed 0 19 inverted, .responding 0x1F00000006⟩ = some .reset := by decide
theorem test_response_carries_the_read_word :
    portOut false ⟨inverted, .responding 0x0D00000000⟩ = ⟨false, some 3⟩ := by decide

/-! ## Host software (47_host_sequences.md R103 and C1; 30_encoding.md R62, R63; P4) -/

theorem test_normalize_strips_digits : normalizeText "He11o, World!".toList = "HEOWORLD".toList := by decide
theorem test_normalize_pads : normalizeText "Hello".toList = "HELLOX".toList := by decide
theorem test_refusal_precedes_the_first_pair :
    (match processText .encrypting ['H', 'E', 'L'] (keyed 3 3 2 5) with
      | .next r => r.1 = keyed 3 3 2 5
      | .fault _ => False
      | .refused _ => False) := rfl
theorem test_assemble_negative_key : assemble (.wr (.K true true) (-21)) = some 0x13FFFFFFEB := by decide
theorem test_expand_encb : (expand (.encb 7 4)).map assemble =
    [some 0x1400000007, some 0x1500000004, some 0x1F00000001, some 0x0E00000000, some 0x0600000000, some 0x0700000000] := by decide

/-! ## Witnesses: what meets the hypotheses of each obligation -/

theorem inv_inverted : Inv inverted :=
  ⟨by decide, by decide, by decide, by decide, by decide, by decide, by decide, by decide⟩

theorem inv_failed : Inv failed := ⟨by decide, by decide, by decide, by decide, by decide, by decide, by decide, by decide⟩

theorem witness_DecodeOfEncodeIsTheInstruction :
    (Instr.illegal 8).wellFormed = true ∧ (Instr.illegal 0xFFFFFFFF).wellFormed = true ∧ (Instr.wrK true true 0xFFFFFFFF).wellFormed = true := by
  decide
theorem witness_DecodeForgetsOnlyIgnoredData :
    (weOf 0x1500000001 = true ∧ (addrOf 0x1500000001).toNat = 5) ∧ (weOf 0x1600000001 = true ∧ (addrOf 0x1600000001).toNat = 6) ∧
    (weOf 0x1E00000001 = true ∧ (addrOf 0x1E00000001).toNat = 14) ∧ (weOf 0x1F00000001 = true ∧ (addrOf 0x1F00000001).toNat = 15) ∧
    weOf 0x0F00000001 = false := by decide
theorem witness_OtherCommandWordsRaiseIllegalCommand : 8 ≤ (8 : Word).toNat ∧
    (offered true 15 8).requests = .transaction (transactionWord true 15 8) :: [] := by decide
theorem witness_StepPerformsTheDecodedTransaction :
    (offered false 14 0).requests = .transaction (transactionWord false 14 0) :: [] ∧
    decodeTableWord 0 0 = some (.rd (.K false false)) ∧ decodeTableWord 40 0x1FFFFFFFFF = some (.illegal 0xFFFFFFFF) := by decide
theorem witness_IdleBlockKeepsItsState : State.reset.requests = [] := by decide
theorem witness_ResetEventGivesTheResetState : (present .reset inverted).requests = .reset :: [] := by decide
theorem witness_EveryTransactionCompletes :
    (offered true 0 3).requests = .transaction (transactionWord true 0 3) :: [] ∧ weOf (transactionWord true 0 3) = true := by decide
theorem witness_ReadReturnsTheStoredWord :
    Inv inverted ∧ exec (.rd .DINV) inverted = .next { inverted with response := some 3 } ∧
      exec (.rd (.INV true false)) inverted = .next { inverted with response := some 20 } := ⟨inv_inverted, rfl, rfl⟩
theorem witness_KeyWriteStoresTheWordAndDropsTheFlags :
    ((false ≠ true ∨ true ≠ true) ∧ (true ≠ true ∨ true ≠ false)) ∧ ∃ s t, exec (.wrK true false 4) s = .next t ∧ t.K ≠ s.K :=
  ⟨by decide, State.reset, _, rfl, by decide⟩
theorem witness_WritesToReadOnlyRegistersRaiseIllegalAccess :
    (6 ≤ (6 : BitVec 4).toNat ∧ (6 : BitVec 4).toNat ≤ 14 ∧ (offered true 6 1).requests = .transaction (transactionWord true 6 1) :: []) ∧
    (6 ≤ (14 : BitVec 4).toNat ∧ (14 : BitVec 4).toNat ≤ 14 ∧
      (offered true 14 1).requests = .transaction (transactionWord true 14 1) :: []) := by decide
theorem witness_EncMultipliesByTheKey :
    ((fed 25 25 inverted).V.x0.toNat < 26 ∧ (fed 25 25 inverted).V.x1.toNat < 26) ∧ 26 ≤ (fed 26 0 inverted).V.x0.toNat ∧
      26 ≤ (fed 0 26 inverted).V.x1.toNat := by decide
theorem witness_InvsSearchesTheInverse :
    State.reset.DVAL = false ∧
    (∃ s : State, s.DVAL = true ∧ 1 ≤ 1 ∧ 1 ≤ 25 ∧ s.DET.toNat * 1 % 26 = 1) ∧
    (∃ s : State, s.DVAL = true ∧ 1 ≤ 25 ∧ 25 ≤ 25 ∧ s.DET.toNat * 25 % 26 = 1) ∧
    ∃ s : State, s.DVAL = true ∧ ∀ i : Nat, 1 ≤ i → i ≤ 25 → s.DET.toNat * i % 26 ≠ 1 := by
  refine ⟨by decide, ⟨{ State.reset with DVAL := true, DET := 1 }, by decide⟩, ⟨{ State.reset with DVAL := true, DET := 25 }, by decide⟩,
    { State.reset with DVAL := true, DET := 13 }, rfl, ?_⟩
  intro i _ _
  have : (13 : Word).toNat = 13 := rfl
  simp only [this]
  omega
theorem witness_MinvBuildsTheInverseMatrix :
    (failed.NVAL = false ∧ failed.NI = true) ∧ (State.reset.NVAL = false ∧ State.reset.NI = false) ∧ inverted.NVAL = true := by decide
theorem witness_InvkInvertsTheKey :
    rawDet (keyed 1 0 0 1).K * (1 : Nat) % 26 = 1 ∧ rawDet (keyed (-1) 0 0 1).K * (25 : Nat) % 26 = 1 ∧
    ∀ i : Nat, 1 ≤ i → i ≤ 25 → rawDet (keyed 13 0 0 1).K * i % 26 ≠ 1 := by
  refine ⟨by decide, by decide, ?_⟩
  intro i _ _
  have : rawDet (keyed 13 0 0 1).K = 13 := by decide
  rw [this]
  omega
theorem witness_DecMultipliesByTheInverse :
    (failed.MVAL = false ∧ failed.NI = true) ∧ (State.reset.MVAL = false ∧ State.reset.NI = false) ∧
    ((fed 26 0 inverted).MVAL = true ∧ 26 ≤ (fed 26 0 inverted).V.x0.toNat) ∧
    ((fed 0 26 inverted).MVAL = true ∧ 26 ≤ (fed 0 26 inverted).V.x1.toNat) ∧
    ((fed 25 25 inverted).MVAL = true ∧ (fed 25 25 inverted).V.x0.toNat < 26 ∧ (fed 25 25 inverted).V.x1.toNat < 26) := by decide
theorem witness_EmodIsTheUniqueResidue :
    (0 ≤ (0 : Int) ∧ (0 : Int) ≤ 25 ∧ (26 : Int) ∣ 26 - 0) ∧ 0 ≤ (25 : Int) ∧ (25 : Int) ≤ 25 ∧ (26 : Int) ∣ -1 - 25 := by decide
theorem witness_OnlyTheReducedKeyMatters :
    (∀ a b : Bool, Instr.enc ≠ .rd (.K a b)) ∧ (∀ a b w, Instr.enc ≠ .wrK a b w) ∧
    (∀ a b : Bool, (getEntry (keyed 29 55 (-24) 31).K a b).toInt % 26 = (getEntry inverted.K a b).toInt % 26) ∧
    ∃ t, exec .enc inverted = .next t := by
  refine ⟨by decide, by intros; simp, by decide, _, rfl⟩
theorem witness_RegistersAreWrittenOnlyByTheirWriters :
    (∃ s t, exec (.wrK true true 4) s = .next t ∧ t.K ≠ s.K) ∧ (∃ s t, exec (.wrV true 4) s = .next t ∧ t.V ≠ s.V) ∧
    (∃ s t, exec .enc s = .next t ∧ t.C ≠ s.C) ∧ (∃ s t, exec .clr s = .next t ∧ t.INV ≠ s.INV) ∧
    (∃ s t, exec .det s = .next t ∧ t.DET ≠ s.DET) ∧ (∃ s t, exec .clr s = .next t ∧ t.DINV ≠ s.DINV) ∧
    ∃ s t, exec (.rd .DET) s = .next t ∧ t.response ≠ s.response :=
  ⟨⟨State.reset, _, rfl, by decide⟩, ⟨State.reset, _, rfl, by decide⟩, ⟨fed 7 4 inverted, _, rfl, by decide⟩,
    ⟨inverted, _, rfl, by decide⟩, ⟨keyed 3 3 2 5, _, rfl, by decide⟩, ⟨inverted, _, rfl, by decide⟩,
    ⟨inverted, _, rfl, by decide⟩⟩
theorem witness_FlagsAreWrittenOnlyByTheirWriters :
    (∃ s t, exec .enc s = .next t ∧ s.CVAL = false ∧ t.CVAL = true) ∧
    (∃ s t, exec (.wrV false 0) s = .next t ∧ s.CVAL = true ∧ t.CVAL = false) ∧
    (∃ s t, exec .invk s = .next t ∧ (s.DVAL = false ∧ t.DVAL = true) ∧ (s.NVAL = false ∧ t.NVAL = true) ∧
      s.MVAL = false ∧ t.MVAL = true) ∧
    (∃ s t, exec .clr s = .next t ∧ (s.DVAL = true ∧ t.DVAL = false) ∧ (s.NVAL = true ∧ t.NVAL = false) ∧
      s.MVAL = true ∧ t.MVAL = false) ∧
    (∃ s t, exec .invk s = .next t ∧ s.NI = false ∧ t.NI = true) ∧ ∃ s t, exec .clr s = .next t ∧ s.NI = true ∧ t.NI = false :=
  ⟨⟨State.reset, _, rfl, by decide⟩, ⟨flagged, _, rfl, by decide⟩, ⟨keyed 3 3 2 5, _, rfl, by decide⟩,
    ⟨inverted, _, rfl, by decide⟩, ⟨keyed 2 4 6 8, _, rfl, by decide⟩, ⟨failed, _, rfl, by decide⟩⟩
theorem witness_CauseIsSticky :
    (∃ s t, exec .nop s = .next t ∧ s.CAUSE = 1 ∧ t.CAUSE = 1) ∧ (∃ s t, exec .wrStatus s = .next t ∧ s.CAUSE = 1 ∧ t.CAUSE = 5) ∧
    ∃ s t, exec .clr s = .next t ∧ s.CAUSE = 1 ∧ t.CAUSE = 0 :=
  ⟨⟨failed, _, rfl, by decide⟩, ⟨failed, _, rfl, by decide⟩, ⟨failed, _, rfl, by decide⟩⟩
theorem witness_NoRuleReadsCause : Instr.enc ≠ .rd .STATUS ∧ ∃ t, exec .enc failed = .next t := ⟨by decide, _, rfl⟩
theorem witness_NoCommandReadsCval : Instr.dec ≠ .rd .STATUS ∧ ∃ t, exec .dec inverted = .next t := ⟨by decide, _, rfl⟩
theorem witness_RepeatingATransactionChangesNothing : ∃ t, exec .invk (keyed 2 4 6 8) = .next t := ⟨_, rfl⟩
theorem witness_InvkFailsExactlyWithoutInverse :
    Int.gcd ((keyed 13 0 0 1).K.m00.toInt * (keyed 13 0 0 1).K.m11.toInt - (keyed 13 0 0 1).K.m01.toInt * (keyed 13 0 0 1).K.m10.toInt) 26 ≠ 1 ∧
    Int.gcd (inverted.K.m00.toInt * inverted.K.m11.toInt - inverted.K.m01.toInt * inverted.K.m10.toInt) 26 = 1 := by decide
theorem witness_InvkInverseIsTwoSided : Invertible (keyed (-3) (-3) (-2) (-5)).K := by decide
theorem witness_EncThenDecRestoresThePair :
    Inv inverted ∧ inverted.MVAL = true ∧ (25 : Word).toNat < 26 ∧ (0 : Word).toNat < 26 := ⟨inv_inverted, by decide⟩
theorem witness_InverseLoadedAsKeyActsAsDec :
    Inv (fed 25 25 inverted) ∧ (fed 25 25 inverted).MVAL = true ∧ (fed 25 25 inverted).V.x0.toNat < 26 ∧
      (fed 25 25 inverted).V.x1.toNat < 26 :=
  ⟨⟨by decide, by decide, by decide, by decide, by decide, by decide, by decide, by decide⟩, by decide⟩
theorem witness_EncIsInjectiveExactlyOnInvertibleKeys :
    Invertible inverted.K ∧ ¬ Invertible failed.K ∧
    (∃ t, exec .enc (fed 25 0 inverted) = .next t ∧ exec .enc (fed 25 0 inverted) = .next t) ∧
    ∃ t u, exec .enc (fed 0 0 failed) = .next t ∧ exec .enc (fed 13 0 failed) = .next u ∧ t.C = u.C :=
  ⟨by decide, by decide, ⟨_, rfl, rfl⟩, ⟨_, _, rfl, rfl, by decide⟩⟩
theorem witness_EveryStepKeepsTheInvariants : ∃ t, Inv inverted ∧ step (present (.transaction (encode .dec)) inverted) = .next t ∧
    Inv (present (.transaction (encode .dec)) inverted) :=
  ⟨_, inv_inverted, rfl, by decide, by decide, by decide, by decide, by decide, by decide, by decide, by decide⟩
theorem witness_EveryRunCompletesWithinTheInvariants : Inv failed := inv_failed

/-- Inputs with no request. -/
def quiet (rst : Bool) : PortIn := ⟨rst, false, false, 0, 0⟩

/-- Inputs that request `enc`. -/
def requesting : PortIn := ⟨false, true, true, 15, 1⟩

theorem witness_ResetEdgeGivesTheResetState :
    (quiet true).rst = true ∧ (quiet false).rst = false ∧ (⟨State.reset, .underReset⟩ : Clocked).phase = .underReset := by decide
theorem witness_AcceptedTransactionIsAnsweredAfterItsLatency :
    acceptsAt requesting ⟨inverted, .idle⟩ = true ∧ (∀ k ∈ List.replicate (Config.latency requesting.word) (quiet false), k.rst = false) ∧
    (quiet false).rst = false ∧
    (List.replicate (Config.latency requesting.word) (quiet false)).length = Config.latency requesting.word ∧
    0 < Config.latency requesting.word :=
  ⟨by decide, fun k hk => by rw [List.eq_of_mem_replicate hk]; rfl, rfl, List.length_replicate, Nat.succ_pos _⟩
theorem witness_ResetAbandonsTheTransactionInFlight :
    (⟨inverted, .busy 0x1F00000006 0⟩ : Clocked).phase = .busy 0x1F00000006 0 ∧
    (⟨inverted, .responding 0x1F00000006⟩ : Clocked).phase = .responding 0x1F00000006 ∧ (quiet true).rst = true ∧
    ∀ k ∈ [quiet true, quiet false], k.reqValid = false := by decide
theorem witness_ExactlyTheAnsweredTransactionsTakeEffect :
    eventAt (quiet false) ⟨inverted, .responding 0x0D00000000⟩ = some (.transaction 0x0D00000000) ∧
    (portOut (quiet false).rst ⟨inverted, .responding 0x0D00000000⟩).rsp = some 3 := by decide
theorem witness_ClockedBlockRefinesTheStep : (⟨inverted, .busy 0x1F00000006 0⟩ : Clocked).block.requests = [] := by decide
theorem witness_LettersAndResiduesCorrespond :
    isCapital 'A' = true ∧ isCapital 'Z' = true ∧ (0 : Word).toNat < 26 ∧ (25 : Word).toNat < 26 := by decide
theorem witness_NormalizeIsIdempotentAndEven :
    (lettersOnly "He11o, World!".toList).length % 2 = 0 ∧ (lettersOnly "Hello".toList).length % 2 = 1 ∧
    (97 ≤ 'a'.toNat ∧ 'z'.toNat ≤ 122) ∧ ¬ (97 ≤ '`'.toNat ∧ '`'.toNat ≤ 122) ∧ ¬ (97 ≤ '|'.toNat ∧ '|'.toNat ≤ 122) := by decide
theorem witness_RefusedTextsReachNoTransaction :
    (∀ w : Word, w.toNat < 26 → letterOf w ≠ '[') ∧ (∀ c ∈ ['A', 'Z', 'H'], ∃ w : Word, w.toNat < 26 ∧ letterOf w = c) ∧
      ['A', 'Z', 'H'].length % 2 = 1 := by
  refine ⟨fun w hw h => ?_, fun c hc => ?_, rfl⟩
  · have : ∀ n : Fin 26, Char.ofNat (65 + n) ≠ '[' := by decide
    exact this ⟨w.toNat, hw⟩ h
  · have : c = 'A' ∨ c = 'Z' ∨ c = 'H' := by simpa using hc
    rcases this with rfl | rfl | rfl
    · exact ⟨0, by decide⟩
    · exact ⟨25, by decide⟩
    · exact ⟨7, by decide⟩
theorem witness_DecryptOfEncryptIsNormalize : Int.gcd ((3 : Int) * 5 - 3 * 2) 26 = 1 := by decide
theorem witness_DecryptReportsNotInvertible : Int.gcd ((2 : Int) * 8 - 4 * 6) 26 ≠ 1 := by decide

end Sys2Proof.Tests
end

/-! # The invariants under every update, and the runs (10_state.md R31, 00_scope.md R13) -/

namespace Sys2Proof.Machine

/-! ## What a word written from a residue holds -/

@[simp] theorem mapVec_uint_zext32_mvmul (A : Mat2 Int) (v : Vec2 Int) :
    mapVec uint (mapVec zext32 (mvmul A v)) = mvmul A v := by
  simp [mapVec, mvmul]

@[simp] theorem mapMat_uint_zext32_adjinv (K : Mat2 Word) (q : Int) :
    mapMat uint (mapMat zext32 (adjinv K q)) = adjinv K q := by
  simp [mapMat, adjinv]

@[simp] theorem uint_zext32_detf (K : Mat2 Word) : uint (zext32 (detf K)) = detf K :=
  uint_zext32_emod _

/-- What the search finds fits its word. -/
theorem uint_zext32_of_invsearch {d q : Int} (h : invsearch d = some q) : uint (zext32 q) = q := by
  obtain ⟨h1, h2, -⟩ := invsearch_some h
  exact uint_zext32 (by omega) (by omega)

/-! ## The values of `DINV` (R31 (I2)) and of the reserved `STATUS` bits (I8) -/

/-- A candidate is a unit or shares a factor with 26. -/
theorem candidate_unit_or_factor : ∀ q ∈ candidates, q ∈ dinvValues ∨ q % 2 = 0 ∨ q % 13 = 0 := by decide

theorem dinvValues_bounds : ∀ q ∈ dinvValues, 0 ≤ q ∧ q ≤ 25 := by decide

/-- What the search finds is a unit (R81 (c)). -/
theorem mem_dinvValues_of_invsearch {d q : Int} (h : invsearch d = some q) : q ∈ dinvValues := by
  obtain ⟨h1, h2, hq⟩ := invsearch_some h
  rw [emod_eq] at hq
  obtain hunit | heven | h13 := candidate_unit_or_factor q (mem_candidates.mpr ⟨h1, h2⟩)
  · exact hunit
  · have hdvd : d * q % 2 = 0 := by rw [Int.mul_emod, heven, mul_zero, Int.zero_emod]
    omega
  · have hdvd : d * q % 13 = 0 := by rw [Int.mul_emod, h13, mul_zero, Int.zero_emod]
    omega

/-- The five flags fill the bits 4:0 of `STATUS` (R21). -/
theorem flagBits_lt (s : State) :
    s.CVAL.toNat + 2 * s.DVAL.toNat + 4 * s.NVAL.toNat + 8 * s.MVAL.toNat + 16 * s.NI.toNat < 32 := by
  have hcv := s.CVAL.toNat_le
  have hdv := s.DVAL.toNat_le
  have hnv := s.NVAL.toNat_le
  have hmv := s.MVAL.toNat_le
  have hni := s.NI.toNat_le
  omega

theorem statusWord_toNat (s : State) : (statusWord s).toNat = s.CVAL.toNat + 2 * s.DVAL.toNat + 4 * s.NVAL.toNat +
    8 * s.MVAL.toNat + 16 * s.NI.toNat + 256 * s.CAUSE.toNat := by
  have hflags := flagBits_lt s
  have hcause := s.CAUSE.isLt
  rw [statusWord, BitVec.toNat_ofNat]
  exact Nat.mod_eq_of_lt (by omega)

/-- The layout of `STATUS` leaves its reserved bits 0, whatever the state (R21). -/
theorem causeIsKnown_iff (s : State) : CauseIsKnown s ↔ s.CAUSE.toNat ≤ 5 := by
  have hflags := flagBits_lt s
  have hcause := s.CAUSE.isLt
  refine ⟨And.left, fun h => ⟨h, ?_, ?_⟩⟩ <;>
  · apply BitVec.eq_of_toNat_eq
    rw [BitVec.extractLsb'_toNat, statusWord_toNat, Nat.shiftRight_eq_div_pow]
    change _ = 0
    omega

theorem code_le_five (e : Exc) : e.code.toNat ≤ 5 := by cases e <;> decide

/-! ## Each update keeps the invariants

An update that an invariant does not read keeps it by definition: `{ h with … }` takes it over from the state before. -/

section
variable {s : State}

theorem inv_reset : Inv State.reset :=
  ⟨by decide, by decide, by decide, by decide, by decide, by decide, by decide, by decide⟩

/-- (I8) reads `CAUSE` only. -/
theorem Inv.causeIsKnown_of_eq {t : State} (h : Inv s) (ht : t.CAUSE = s.CAUSE) : CauseIsKnown t := by
  rw [causeIsKnown_iff, ht]
  exact (causeIsKnown_iff s).mp h.causeIsKnown

/-- No invariant reads the events to come. -/
theorem Inv.withRequests (h : Inv s) (r : List Event) : Inv { s with requests := r } := { h with }

theorem Inv.accept (h : Inv s) (rest : List Event) : Inv (accept rest s) := { h with }

theorem Inv.respond (h : Inv s) (w : Word) : Inv (respond w s) := { h with }

theorem Inv.raise (h : Inv s) (e : Exc) : Inv (raise e s) :=
  { h with causeIsKnown := (causeIsKnown_iff _).mpr (code_le_five e) }

/-- A key write: every flag is 0 after it, so that no invariant speaks of the new key (R91). -/
theorem Inv.keyWrite (h : Inv s) (i j : Bool) (w : Word) : Inv (clearFlags (writeKey i j w s)) where
  resultsAreResidues := h.resultsAreResidues
  dinvIsZeroOrUnit := h.dinvIsZeroOrUnit
  dvalMeansDeterminant := nofun
  nvalMeansInverse := nofun
  mvalMeansInverseMatrix := nofun
  niMeansNoInverse := nofun
  cvalMeansProduct := nofun
  causeIsKnown := h.causeIsKnown_of_eq rfl

/-- An input write: only (I7) reads `V`, and `CVAL` is 0 after it (R92). -/
theorem Inv.inputWrite (h : Inv s) (j : Bool) (w : Word) : Inv (clearCval (writeInput j w s)) :=
  { h with
    cvalMeansProduct := nofun
    causeIsKnown := h.causeIsKnown_of_eq rfl }

/-- `CLR` (R98): from every state. -/
theorem inv_clr (s : State) : Inv (acknowledge (clearFlags (clearResults s))) where
  resultsAreResidues := inv_reset.resultsAreResidues
  dinvIsZeroOrUnit := inv_reset.dinvIsZeroOrUnit
  dvalMeansDeterminant := nofun
  nvalMeansInverse := nofun
  mvalMeansInverseMatrix := nofun
  niMeansNoInverse := nofun
  cvalMeansProduct := nofun
  causeIsKnown := inv_reset.causeIsKnown

/-- The output pair of `ENC` or `DEC`: a product with `V` in range, by the key or by a valid inverse matrix. -/
theorem Inv.writeOutput {A : Mat2 Int} (h : Inv s) (hv : inRange s.V = true)
    (hA : A = kr s.K ∨ s.MVAL = true ∧ A = mapMat uint s.INV) :
    Inv (writeOutput (mvmul A (mapVec uint s.V)) s) :=
  { h with
    resultsAreResidues := by
      obtain ⟨-, -, hrest⟩ := h.resultsAreResidues
      refine ⟨?_, ?_, hrest⟩ <;> simp [mvmul, mapVec, emod_lt]
    cvalMeansProduct := fun _ => by
      have hres := (inRange_iff s.V).mp hv
      refine ⟨by simpa [uint] using hres.1, by simpa [uint] using hres.2, ?_⟩
      rw [writeOutput_C, mapVec_uint_zext32_mvmul]
      exact hA.imp (congrArg (mvmul · _)) (And.imp_right (congrArg (mvmul · _)))
    causeIsKnown := h.causeIsKnown_of_eq rfl }

/-- `DET`: with `DVAL` = 1 before, the register already held the determinant; with `DVAL` = 0 no later stage was valid. -/
theorem Inv.writeDet (h : Inv s) : Inv (writeDet (detf s.K) s) :=
  have hdet : s.DVAL = true → uint (Machine.writeDet (detf s.K) s).DET = uint s.DET := fun hd => by
    rw [writeDet_DET, uint_zext32_detf, h.dvalMeansDeterminant hd]
  { h with
    resultsAreResidues := by
      obtain ⟨hc0, hc1, h00, h01, h10, h11, -⟩ := h.resultsAreResidues
      exact ⟨hc0, hc1, h00, h01, h10, h11, by rw [writeDet_DET, uint_zext32_detf]; exact emod_lt _⟩
    dvalMeansDeterminant := fun _ => uint_zext32_detf s.K
    nvalMeansInverse := fun hn => by
      obtain ⟨hd, hinv⟩ := h.nvalMeansInverse hn
      exact ⟨rfl, by rwa [hdet hd]⟩
    niMeansNoInverse := fun hni => by
      obtain ⟨hd, hn, hm, hnone⟩ := h.niMeansNoInverse hni
      exact ⟨rfl, hn, hm, by rwa [hdet hd]⟩
    causeIsKnown := h.causeIsKnown_of_eq rfl }

/-- Under `NVAL`, `DINV` holds what a search on `DET` finds. -/
theorem Inv.invsearch_of_nval (h : Inv s) (hn : s.NVAL = true) : invsearch (uint s.DET) = some (uint s.DINV) := by
  obtain ⟨-, hinv⟩ := h.nvalMeansInverse hn
  obtain ⟨h0, h25⟩ := dinvValues_bounds _ h.dinvIsZeroOrUnit
  have hne : uint s.DINV ≠ 0 := fun hz => by rw [hz, mul_zero] at hinv; exact absurd hinv (by decide)
  exact invsearch_eq_some (by omega) h25 hinv

/-- A found inverse: a valid `DINV` held it already, so that a valid inverse matrix stays the one of (I5). -/
theorem Inv.writeDinv {q : Int} (h : Inv s) (hd : s.DVAL = true) (hq : invsearch (uint s.DET) = some q) :
    Inv (writeDinv q s) :=
  have huint : uint (zext32 q) = q := uint_zext32_of_invsearch hq
  { h with
    dinvIsZeroOrUnit := by
      rw [DinvIsZeroOrUnit, writeDinv_DINV, huint]; exact mem_dinvValues_of_invsearch hq
    nvalMeansInverse := fun _ => ⟨hd, by
      rw [writeDinv_DINV, huint]; exact (invsearch_some hq).2.2⟩
    mvalMeansInverseMatrix := fun hm => by
      obtain ⟨hn, hmat⟩ := h.mvalMeansInverseMatrix hm
      have hsame : uint s.DINV = q := Option.some.inj ((h.invsearch_of_nval hn).symm.trans hq)
      exact ⟨rfl, by rw [writeDinv_DINV, huint, ← hsame]; exact hmat⟩
    niMeansNoInverse := nofun
    causeIsKnown := h.causeIsKnown_of_eq rfl }

/-- A failed search: no inverse was valid before it either. -/
theorem Inv.markNotInvertible (h : Inv s) (hd : s.DVAL = true) (hnone : invsearch (uint s.DET) = none) :
    Inv (markNotInvertible s) :=
  have hn : s.NVAL ≠ true := fun hn => by simp [h.invsearch_of_nval hn] at hnone
  have hm : s.MVAL ≠ true := fun hm => hn (h.mvalMeansInverseMatrix hm).1
  { h with
    nvalMeansInverse := nofun
    mvalMeansInverseMatrix := fun hm' => absurd hm' hm
    niMeansNoInverse := fun _ => ⟨hd, rfl, Bool.eq_false_of_not_eq_true hm, invsearch_none.mp hnone⟩
    causeIsKnown := h.causeIsKnown_of_eq rfl }

/-- Both outcomes of a search on a valid `DET` (R80). -/
theorem Inv.afterSearch (h : Inv s) (hd : s.DVAL = true) : Inv (afterSearch (invsearch (uint s.DET)) s) := by
  match hs : invsearch (uint s.DET) with
  | some q => exact h.writeDinv hd hs
  | none => exact (h.markNotInvertible hd hs).raise _

/-- The inverse matrix: a valid one is only written again, so that a product by it stays one (R83). -/
theorem Inv.writeInverse (h : Inv s) (hn : s.NVAL = true) : Inv (writeInverse (adjinv s.K (uint s.DINV)) s) :=
  { h with
    resultsAreResidues := by
      obtain ⟨hc0, hc1, -, -, -, -, hdet⟩ := h.resultsAreResidues
      refine ⟨hc0, hc1, ?_, ?_, ?_, ?_, hdet⟩ <;> simp [adjinv, mapMat, emod_lt]
    mvalMeansInverseMatrix := fun _ => ⟨hn, mapMat_uint_zext32_adjinv _ _⟩
    niMeansNoInverse := fun hni => by simp [(h.niMeansNoInverse hni).2.1] at hn
    cvalMeansProduct := fun hc => by
      obtain ⟨hv0, hv1, hprod⟩ := h.cvalMeansProduct hc
      refine ⟨hv0, hv1, hprod.imp_right fun ⟨hm, hdec⟩ => ⟨rfl, ?_⟩⟩
      rw [writeInverse_INV, mapMat_uint_zext32_adjinv, ← (h.mvalMeansInverseMatrix hm).2]
      exact hdec
    causeIsKnown := h.causeIsKnown_of_eq rfl }

/-- `INVK` (R85) is the three stages one after the other, so their rules compose. -/
theorem Inv.afterInvert (h : Inv s) : Inv (afterInvert (invsearch (detf s.K)) s) := by
  have hsearch := h.writeDet.afterSearch rfl
  rw [writeDet_DET, uint_zext32_detf] at hsearch
  match hs : invsearch (detf s.K) with
  | none => rwa [hs] at hsearch
  | some q =>
    rw [hs] at hsearch
    have hinv := hsearch.writeInverse rfl
    rwa [show uint (Machine.afterSearch (some q) _).DINV = q from uint_zext32_of_invsearch hs] at hinv

/-! ## Instructions, steps and runs -/

/-- Every instruction completes, and keeps the invariants (R31, R61). -/
theorem Inv.exec_completes (h : Inv s) (i : Instr) : ∃ t, exec i s = .next t ∧ Inv t := by
  cases i with
  | rd a => exact ⟨_, exec_rd a s, h.respond _⟩
  | wrK i j w => exact ⟨_, exec_wrK i j w s, h.keyWrite i j w⟩
  | wrV j w => exact ⟨_, exec_wrV j w s, h.inputWrite j w⟩
  | wrC j => exact ⟨_, exec_wrC j s, h.raise _⟩
  | wrI i j => exact ⟨_, exec_wrI i j s, h.raise _⟩
  | wrD j => exact ⟨_, exec_wrD j s, h.raise _⟩
  | wrStatus => exact ⟨_, exec_wrStatus s, h.raise _⟩
  | nop => exact ⟨_, exec_nop s, h⟩
  | clr => exact ⟨_, exec_clr s, inv_clr s⟩
  | illegal w => exact ⟨_, exec_illegal w s, h.raise _⟩
  | det => exact ⟨_, exec_det s, h.writeDet⟩
  | enc =>
    refine ⟨_, exec_enc s, ?_⟩
    split
    case isTrue hv => exact h.writeOutput hv (.inl rfl)
    case isFalse => exact h.raise _
  | dec =>
    refine ⟨_, exec_dec s, ?_⟩
    split
    case isTrue hm =>
      split
      case isTrue hv => exact h.writeOutput hv (.inr ⟨hm, rfl⟩)
      case isFalse => exact h.raise _
    case isFalse => exact h.raise _
  | invs =>
    refine ⟨_, exec_invs s, ?_⟩
    split
    case isTrue hd => exact h.afterSearch hd
    case isFalse => exact h.raise _
  | minv =>
    refine ⟨_, exec_minv s, ?_⟩
    split
    case isTrue hn => exact h.writeInverse hn
    case isFalse => exact h.raise _
  | invk => exact ⟨_, exec_invk s, h.afterInvert⟩

/-- A step with an event next completes, takes that event only, and keeps the invariants. -/
theorem Inv.step_completes {e : Event} {rest : List Event} (h : Inv s) (hr : s.requests = e :: rest) :
    ∃ t, step s = .next t ∧ t.requests = rest ∧ Inv t := by
  cases e with
  | reset => exact ⟨_, step_reset hr, rfl, inv_reset.withRequests rest⟩
  | transaction t =>
    obtain ⟨u, hu, hinv⟩ := (h.accept rest).exec_completes (decode t)
    exact ⟨u, (step_transaction hr).trans hu, exec_requests hu, hinv⟩

/-- By induction on the events: each step takes the first one. -/
theorem Inv.runs (es : List Event) (h : Inv s) : ∃ t, Runs s es t ∧ Inv t ∧ t.requests = [] := by
  induction es generalizing s with
  | nil => exact ⟨{ s with requests := [] }, rfl, h.withRequests [], rfl⟩
  | cons e es ih =>
    obtain ⟨t, hstep, hreq, ht⟩ := (h.withRequests (e :: es)).step_completes rfl
    obtain ⟨u, hrun, hu, hnone⟩ := ih ht
    exact ⟨u, runs_cons hstep hreq hrun, hu, hnone⟩

end

/-- Settles O43, by induction on the events, each of whose steps completes and keeps the invariants. -/
theorem everyRunCompletesWithinTheInvariants : Obligations.EveryRunCompletesWithinTheInvariants :=
  fun _ es h => h.runs es

end Sys2Proof.Machine

/-! # The step, said of its decoded instruction (00_scope.md R12, R13; 20_memory.md R37 to R39) -/

namespace Sys2Proof.Machine

/-- Placing a table word offers the transaction it decodes from (R51, log 4, log 7). -/
theorem withFetchWord_of_decodeTableWord {nbits w : Nat} {i : Instr} (s : State) (h : decodeTableWord nbits w = some i) :
    ∃ t, decode t = i ∧ s.withFetchWord nbits w = present (.transaction t) s := by
  rw [decodeTableWord] at h
  rw [State.withFetchWord]
  match hw : readTransactionWord w with
  | .ok t => rw [hw] at h; exact ⟨t, Option.some.inj h, rfl⟩
  | .error _ => rw [hw] at h; nomatch h

/-- Settles O7, by the equation of a step with a transaction next and by the transaction that a placed word offers. -/
theorem stepPerformsTheDecodedTransaction : Obligations.StepPerformsTheDecodedTransaction := by
  refine ⟨fun _ _ _ hr => step_transaction hr, fun s nbits w i h => ?_⟩
  obtain ⟨t, rfl, hplaced⟩ := withFetchWord_of_decodeTableWord s h
  rw [hplaced]
  exact step_present t s

/-- Settles O8, by the equation of an idle step. -/
theorem idleBlockKeepsItsState : Obligations.IdleBlockKeepsItsState := fun _ => step_idle

/-! ## Completion of every instruction and of every offered event, from every state (R38, R61) -/

/-- No instruction ends in a fault or a refusal. -/
theorem exec_completes (i : Instr) (s : State) : ∃ t, exec i s = .next t := by
  cases i with
  | enc => exact ⟨_, exec_enc s⟩
  | dec => exact ⟨_, exec_dec s⟩
  | invs => exact ⟨_, exec_invs s⟩
  | minv => exact ⟨_, exec_minv s⟩
  | invk => exact ⟨_, exec_invk s⟩
  | _ => exact ⟨_, rfl⟩

@[simp] theorem afterSearch_response (o : Option Int) (s : State) : (afterSearch o s).response = s.response := by
  cases o <;> rfl

@[simp] theorem afterInvert_response (o : Option Int) (s : State) : (afterInvert o s).response = s.response := by
  cases o <;> rfl

/-- Only a read gives a response of its own; every other instruction leaves the one of acceptance (R37). -/
theorem exec_response {i : Instr} {s t : State} (h : exec i s = .next t) :
    t.response = s.response ∨ ∃ a, i = .rd a ∧ t.response = some (regRead a s) := by
  cases i with
  | rd a => obtain rfl := Host.Outcome.next.inj h; exact .inr ⟨a, rfl, rfl⟩
  | enc => rw [exec_enc] at h; cases h; exact .inl (by split <;> rfl)
  | dec =>
    rw [exec_dec] at h; cases h
    refine .inl ?_
    split
    · split <;> rfl
    · rfl
  | invs => rw [exec_invs] at h; cases h; exact .inl (by split <;> simp)
  | minv => rw [exec_minv] at h; cases h; exact .inl (by split <;> rfl)
  | invk => rw [exec_invk] at h; cases h; exact .inl (afterInvert_response _ s)
  | _ => obtain rfl := Host.Outcome.next.inj h; exact .inl rfl

/-- A transaction completes with exactly one response word. -/
theorem step_transaction_responds (t : TransactionWord) (s : State) :
    ∃ u w, step (present (.transaction t) s) = .next u ∧ u.requests = s.requests ∧ u.response = some w := by
  obtain ⟨u, hu⟩ := exec_completes (decode t) (accept s.requests s)
  have hreq : u.requests = s.requests := (exec_requests hu).trans (accept_requests s _)
  obtain hw | ⟨a, -, hw⟩ := exec_response hu
  · exact ⟨u, 0, (step_present t s).trans hu, hreq, hw⟩
  · exact ⟨u, _, (step_present t s).trans hu, hreq, hw⟩

/-- An event that is offered is taken, and the events behind it stay. -/
theorem step_present_completes (e : Event) (s : State) :
    ∃ t, step (present e s) = .next t ∧ t.requests = s.requests := by
  cases e with
  | reset => exact ⟨_, step_reset rfl, rfl⟩
  | transaction t =>
    obtain ⟨u, -, hu, hreq, -⟩ := step_transaction_responds t s
    exact ⟨u, hu, hreq⟩

/-- What a step does with the event it takes does not depend on the events behind it. -/
theorem step_present_with_requests {e : Event} {s t : State} (r : List Event) (h : step (present e s) = .next t) :
    step { s with requests := e :: r } = .next { t with requests := r } := by
  cases e with
  | reset => obtain rfl := Host.Outcome.next.inj h; rfl
  | transaction w => exact exec_with_requests r h

end Sys2Proof.Machine

/-! # The block at clock edges (20_memory.md R37, R38; 70_reset_and_hazards.md R126) -/

namespace Sys2Proof.Machine

/-! ## The protocol without reset: acceptance, `LAT(t)` edges, one response cycle, idle again -/

/-- Acceptance happens in the idle phase only, and without reset (R38). -/
theorem idle_of_acceptsAt {i : PortIn} {c : Clocked} (h : acceptsAt i c = true) : i.rst = false ∧ c.phase = .idle := by
  simp only [acceptsAt, Bool.and_eq_true, Bool.not_eq_true'] at h
  obtain ⟨⟨hrst, -⟩, hready⟩ := h
  refine ⟨hrst, ?_⟩
  match hp : c.phase with
  | .idle => rfl
  | .underReset | .busy _ _ | .responding _ => simp [portOut, hrst, hp] at hready

/-- The edge of acceptance starts the wait. -/
theorem edge_of_acceptsAt {i : PortIn} {c : Clocked} (h : acceptsAt i c = true) :
    edge i c = .next ⟨c.block, .busy i.word (Config.extraCycles i.word)⟩ := by
  obtain ⟨hrst, hp⟩ := idle_of_acceptsAt h
  rw [edge_of_none (by simp [eventAt, hrst, hp])]
  simp [nextPhase, hrst, hp, h]

/-- An edge of the wait moves only the count. -/
theorem edge_busy_succ {k : PortIn} (hk : k.rst = false) (b : State) (t : TransactionWord) (n : Nat) :
    edge k ⟨b, .busy t (n + 1)⟩ = .next ⟨b, .busy t n⟩ := by
  rw [edge_of_none (by simp [eventAt, hk])]
  simp [nextPhase, hk]

/-- The last edge of the wait starts the response cycle. -/
theorem edge_busy_zero {k : PortIn} (hk : k.rst = false) (b : State) (t : TransactionWord) :
    edge k ⟨b, .busy t 0⟩ = .next ⟨b, .responding t⟩ := by
  rw [edge_of_none (by simp [eventAt, hk])]
  simp [nextPhase, hk]

/-- The edge that ends the response cycle performs the transaction (log 9). -/
theorem edge_responding {k : PortIn} {b u : State} {t : TransactionWord} (hk : k.rst = false)
    (h : step (present (.transaction t) b) = .next u) : edge k ⟨b, .responding t⟩ = .next ⟨u, .idle⟩ := by
  have hevent : eventAt k ⟨b, .responding t⟩ = some (.transaction t) := by simp [eventAt, hk]
  rw [edge_of_event hevent h]
  simp [nextPhase, hk]

/-- Each edge of the wait takes one from what is left. -/
theorem edges_busy {ins : List PortIn} (hins : ∀ k ∈ ins, k.rst = false) (b : State) (t : TransactionWord) (n : Nat) :
    edges ins ⟨b, .busy t (n + ins.length)⟩ = .next ⟨b, .busy t n⟩ := by
  induction ins with
  | nil => rfl
  | cons k ins ih =>
    obtain ⟨hk, hrest⟩ := List.forall_mem_cons.mp hins
    rw [List.length_cons, ← Nat.add_assoc, edges_cons (edge_busy_succ hk b t _), ih hrest]

/-- The wait and the edge after it end in the response cycle. -/
theorem edges_busy_responding {ins : List PortIn} (hins : ∀ k ∈ ins, k.rst = false) (b : State) (t : TransactionWord)
    {n : Nat} (hn : ins.length = n + 1) : edges ins ⟨b, .busy t n⟩ = .next ⟨b, .responding t⟩ := by
  induction ins generalizing n with
  | nil => nomatch hn
  | cons k ins ih =>
    obtain ⟨hk, hrest⟩ := List.forall_mem_cons.mp hins
    cases n with
    | zero =>
      obtain rfl := List.eq_nil_of_length_eq_zero (Nat.succ.inj hn)
      exact edges_cons (edge_busy_zero hk b t)
    | succ n => rw [edges_cons (edge_busy_succ hk b t n), ih hrest (Nat.succ.inj hn)]

/-- Settles O45: the wait counts down `LAT(t)` edges in which the port is closed, then comes the response cycle. -/
theorem acceptedTransactionIsAnsweredAfterItsLatency : Obligations.AcceptedTransactionIsAnsweredAfterItsLatency := by
  intro c i j ins hacc hins hj hlen
  have hstart := edge_of_acceptsAt hacc
  refine ⟨fun n hn => ?_, ?_⟩
  · obtain ⟨left, hleft⟩ := Nat.exists_eq_add_of_le' (Nat.le_of_lt_succ hn)
    have htake : (ins.take n).length = n := by rw [List.length_take, hlen]; exact Nat.min_eq_left hn.le
    have hquiet : ∀ k ∈ ins.take n, k.rst = false := fun k hk => hins k (List.mem_of_mem_take hk)
    have hwait := edges_busy hquiet c.block i.word left
    rw [htake, ← hleft] at hwait
    exact ⟨_, (edges_cons hstart).trans hwait, rfl, rfl⟩
  · obtain ⟨u, w, hstep, -, hw⟩ := step_transaction_responds i.word c.block
    refine ⟨⟨c.block, .responding i.word⟩, ⟨u, .idle⟩, w, ?_, rfl, ?_, edge_responding hj hstep, hstep, hw, rfl⟩
    · rw [edges_cons hstart]
      exact edges_busy_responding hins c.block i.word hlen
    · simp [portOut, responseOf_of_step hstep, hw]

/-! ## Refinement: an edge performs no event or one step -/

/-- An event offered by itself, then a run, is a run with that event in front. -/
theorem runs_present {s t u : State} {e : Event} {es : List Event} (h : step (present e s) = .next t)
    (hr : Runs t es u) : Runs s (e :: es) u :=
  runs_cons (step_present_with_requests es h) rfl hr

/-- Every edge completes, leaves the block's waiting events, and does what the step does with the event that takes effect. -/
theorem edge_completes (i : PortIn) (c : Clocked) : ∃ d, edge i c = .next d ∧ d.block.requests = c.block.requests ∧
    ∀ es u, Runs d.block es u → Runs c.block ((eventAt i c).toList ++ es) u := by
  match he : eventAt i c with
  | none => exact ⟨_, edge_of_none he, rfl, fun _ _ hr => hr⟩
  | some e =>
    obtain ⟨t, hstep, hreq⟩ := step_present_completes e c.block
    exact ⟨_, edge_of_event he hstep, hreq, fun _ _ hr => runs_present hstep hr⟩

/-- Settles O47, by induction on the edges: each one puts its event, if any, in front of the run of the rest. -/
theorem clockedBlockRefinesTheStep : Obligations.ClockedBlockRefinesTheStep := by
  intro ins
  induction ins with
  | nil => exact fun c hnone => ⟨c, rfl, runs_nil hnone⟩
  | cons i ins ih =>
    intro c hnone
    obtain ⟨d, hedge, hreq, hcons⟩ := edge_completes i c
    obtain ⟨d', hedges, hrun⟩ := ih d (hreq.trans hnone)
    refine ⟨d', (edges_cons hedge).trans hedges, ?_⟩
    rw [eventsOf_cons hedge]
    exact hcons _ _ hrun

end Sys2Proof.Machine

/-! # The state: what a step keeps, and what reset holds (10_state.md R30, R31; 70_reset_and_hazards.md R127) -/

namespace Sys2Proof.Machine

/-- What an instruction answers from a state of the invariants is one of them. -/
theorem Inv.of_exec {i : Instr} {s t : State} (h : Inv s) (hx : exec i s = .next t) : Inv t := by
  obtain ⟨u, hu, hinv⟩ := h.exec_completes i
  obtain rfl : u = t := Host.Outcome.next.inj (hu.symm.trans hx)
  exact hinv

/-- Settles O42, by the three things a step can do: nothing, a reset, or one instruction on the accepted state. -/
theorem everyStepKeepsTheInvariants : Obligations.EveryStepKeepsTheInvariants := by
  intro s t h hstep
  obtain ⟨-, rfl⟩ | ⟨rest, -, rfl⟩ | ⟨w, rest, -, hx⟩ := step_cases hstep
  · exact h
  · exact inv_reset.withRequests rest
  · exact (h.accept rest).of_exec hx

/-- Settles O41, by the invariants of the reset state, evaluated one by one. -/
theorem invariantsHoldAtReset : Obligations.InvariantsHoldAtReset := inv_reset

/-- Settles O9, by the equation of a step with a reset next. -/
theorem resetEventGivesTheResetState : Obligations.ResetEventGivesTheResetState := fun _ _ hr => step_reset hr

@[simp] theorem getEntry_zero (i j : Bool) : getEntry (⟨0, 0, 0, 0⟩ : Mat2 Word) i j = 0 := by
  cases i <;> cases j <;> rfl

@[simp] theorem getComponent_zero (j : Bool) : getComponent (⟨0, 0⟩ : Vec2 Word) j = 0 := by cases j <;> rfl

@[simp] theorem regRead_reset (a : Reg) : regRead a State.reset = 0 := by
  cases a with
  | K i j | INV i j => exact getEntry_zero i j
  | V j | C j => exact getComponent_zero j
  | DET | DINV | STATUS | CMD => rfl

/-- Settles O10, by what each register reads after reset. -/
theorem resetStateIsAllZero : Obligations.ResetStateIsAllZero := by
  refine ⟨rfl, rfl, rfl, rfl, rfl, rfl, rfl, rfl, rfl, rfl, rfl, rfl, fun a => ?_⟩
  rw [exec_rd, regRead_reset]
  rfl

/-! ## The bits of `STATUS` (R21) -/

/-- A bit, from the value of the word. -/
theorem getLsbD_eq_of_toNat {w : Word} {k : Nat} {b : Bool} (h : w.toNat / 2 ^ k % 2 = b.toNat) : w.getLsbD k = b := by
  rw [← BitVec.testBit_toNat, Nat.testBit_eq_decide_div_mod_eq, h]
  cases b <;> rfl

/-- A field, from the value of the word. -/
theorem extractLsb'_eq_of_toNat {w : Word} {k n : Nat} {x : BitVec n} (h : w.toNat / 2 ^ k % 2 ^ n = x.toNat) :
    w.extractLsb' k n = x := by
  apply BitVec.eq_of_toNat_eq
  rw [BitVec.extractLsb'_toNat, Nat.shiftRight_eq_div_pow, h]

theorem extractLsb'_eq_zero {w : Word} {k n : Nat} (h : w.toNat / 2 ^ k % 2 ^ n = 0) : w.extractLsb' k n = 0 :=
  extractLsb'_eq_of_toNat (h.trans BitVec.toNat_zero.symm)

/-- Settles O13: each bit and each field is a digit of the sum that `STATUS` is. -/
theorem statusReadsAsLaidOut : Obligations.StatusReadsAsLaidOut := by
  intro s
  have hword := statusWord_toNat s
  have hcv := s.CVAL.toNat_le
  have hdv := s.DVAL.toNat_le
  have hnv := s.NVAL.toNat_le
  have hmv := s.MVAL.toNat_le
  have hni := s.NI.toNat_le
  have hcause := s.CAUSE.isLt
  refine ⟨statusWord s, exec_rd .STATUS s, getLsbD_eq_of_toNat ?_, getLsbD_eq_of_toNat ?_, getLsbD_eq_of_toNat ?_,
    getLsbD_eq_of_toNat ?_, getLsbD_eq_of_toNat ?_, extractLsb'_eq_zero ?_, extractLsb'_eq_of_toNat ?_,
    extractLsb'_eq_zero ?_⟩ <;> omega

end Sys2Proof.Machine

/-! # What each instruction writes (10_state.md R15 to R32) -/

namespace Sys2Proof.Machine

/-- Which instruction records which exception, and writes nothing else (R112 (b), R113 to R116, R119). -/
inductive OnlyRaises (s : State) : Instr → Exc → Prop
  | wrC (j : Bool) : OnlyRaises s (.wrC j) .illegalAccess
  | wrI (i j : Bool) : OnlyRaises s (.wrI i j) .illegalAccess
  | wrD (j : Bool) : OnlyRaises s (.wrD j) .illegalAccess
  | wrStatus : OnlyRaises s .wrStatus .illegalAccess
  | illegal (w : Word) : OnlyRaises s (.illegal w) .illegalCommand
  | encRange (hv : inRange s.V = false) : OnlyRaises s .enc .operandRange
  | decRange (hm : s.MVAL = true) (hv : inRange s.V = false) : OnlyRaises s .dec .operandRange
  | decMissing (hm : s.MVAL = false) : OnlyRaises s .dec (missingInverse s)
  | invsMissing (hd : s.DVAL = false) : OnlyRaises s .invs .sequenceError
  | minvMissing (hn : s.NVAL = false) : OnlyRaises s .minv (missingInverse s)

/-- Everything an instruction can do to a state, one constructor per outcome, under the condition it has it. -/
inductive Effect (s : State) : Instr → State → Prop
  | rd (a : Reg) : Effect s (.rd a) (respond (regRead a s) s)
  | wrK (i j : Bool) (w : Word) : Effect s (.wrK i j w) (clearFlags (writeKey i j w s))
  | wrV (j : Bool) (w : Word) : Effect s (.wrV j w) (clearCval (writeInput j w s))
  | nop : Effect s .nop s
  | clr : Effect s .clr (acknowledge (clearFlags (clearResults s)))
  | enc (hv : inRange s.V = true) : Effect s .enc (writeOutput (mvmul (kr s.K) (mapVec uint s.V)) s)
  | dec (hm : s.MVAL = true) (hv : inRange s.V = true) :
      Effect s .dec (writeOutput (mvmul (mapMat uint s.INV) (mapVec uint s.V)) s)
  | det : Effect s .det (writeDet (detf s.K) s)
  | invsFound {q : Int} (hd : s.DVAL = true) (hq : invsearch (uint s.DET) = some q) : Effect s .invs (writeDinv q s)
  | invsNone (hd : s.DVAL = true) (hq : invsearch (uint s.DET) = none) :
      Effect s .invs (raise .notInvertible (markNotInvertible s))
  | minv (hn : s.NVAL = true) : Effect s .minv (writeInverse (adjinv s.K (uint s.DINV)) s)
  | invkFound {q : Int} (hq : invsearch (detf s.K) = some q) :
      Effect s .invk (writeInverse (adjinv s.K q) (writeDinv q (writeDet (detf s.K) s)))
  | invkNone (hq : invsearch (detf s.K) = none) :
      Effect s .invk (raise .notInvertible (markNotInvertible (writeDet (detf s.K) s)))
  | onlyRaises {i : Instr} {e : Exc} (hr : OnlyRaises s i e) : Effect s i (raise e s)

/-- An outcome of `Effect` is what the instruction answers. -/
theorem Effect.exec {i : Instr} {s t : State} (h : Effect s i t) : exec i s = .next t := by
  cases h with
  | enc hv => simp [exec_enc, hv]
  | dec hm hv => simp [exec_dec, hm, hv]
  | invsFound hd hq | invsNone hd hq => simp [exec_invs, hd, hq, afterSearch]
  | minv hn => simp [exec_minv, hn]
  | invkFound hq | invkNone hq => simp [exec_invk, hq, afterInvert]
  | onlyRaises hr =>
    cases hr with
    | encRange hv => simp [exec_enc, hv]
    | decRange hm hv => simp [exec_dec, hm, hv]
    | decMissing hm => simp [exec_dec, hm]
    | invsMissing hd => simp [exec_invs, hd]
    | minvMissing hn => simp [exec_minv, hn]
    | _ => rfl
  | _ => rfl

/-- Every instruction has an outcome of `Effect`. -/
theorem exists_effect (i : Instr) (s : State) : ∃ t, Effect s i t := by
  cases i with
  | rd a => exact ⟨_, .rd a⟩
  | wrK i j w => exact ⟨_, .wrK i j w⟩
  | wrV j w => exact ⟨_, .wrV j w⟩
  | wrC j => exact ⟨_, .onlyRaises (.wrC j)⟩
  | wrI i j => exact ⟨_, .onlyRaises (.wrI i j)⟩
  | wrD j => exact ⟨_, .onlyRaises (.wrD j)⟩
  | wrStatus => exact ⟨_, .onlyRaises .wrStatus⟩
  | illegal w => exact ⟨_, .onlyRaises (.illegal w)⟩
  | nop => exact ⟨_, .nop⟩
  | clr => exact ⟨_, .clr⟩
  | det => exact ⟨_, .det⟩
  | enc =>
    match hv : inRange s.V with
    | true => exact ⟨_, .enc hv⟩
    | false => exact ⟨_, .onlyRaises (.encRange hv)⟩
  | dec =>
    match hm : s.MVAL, hv : inRange s.V with
    | true, true => exact ⟨_, .dec hm hv⟩
    | true, false => exact ⟨_, .onlyRaises (.decRange hm hv)⟩
    | false, _ => exact ⟨_, .onlyRaises (.decMissing hm)⟩
  | invs =>
    match hd : s.DVAL, hq : invsearch (uint s.DET) with
    | true, some _ => exact ⟨_, .invsFound hd hq⟩
    | true, none => exact ⟨_, .invsNone hd hq⟩
    | false, _ => exact ⟨_, .onlyRaises (.invsMissing hd)⟩
  | minv =>
    match hn : s.NVAL with
    | true => exact ⟨_, .minv hn⟩
    | false => exact ⟨_, .onlyRaises (.minvMissing hn)⟩
  | invk =>
    match hq : invsearch (detf s.K) with
    | some _ => exact ⟨_, .invkFound hq⟩
    | none => exact ⟨_, .invkNone hq⟩

/-- `Effect` is what `exec` answers, said as a case list. -/
theorem exec_eq_next_iff {i : Instr} {s t : State} : exec i s = .next t ↔ Effect s i t := by
  refine ⟨fun h => ?_, Effect.exec⟩
  obtain ⟨u, hu⟩ := exists_effect i s
  obtain rfl : u = t := Host.Outcome.next.inj (hu.exec.symm.trans h)
  exact hu

section
variable {i : Instr} {s t : State}

/-! ## The writers of each register (R15, R16, R18 to R20) -/

theorem Effect.K_eq_or (h : Effect s i t) : t.K = s.K ∨ ∃ a b w, i = .wrK a b w := by
  cases h with
  | wrK a b w => exact .inr ⟨a, b, w, rfl⟩
  | _ => exact .inl rfl

theorem Effect.V_eq_or (h : Effect s i t) : t.V = s.V ∨ ∃ b w, i = .wrV b w := by
  cases h with
  | wrV b w => exact .inr ⟨b, w, rfl⟩
  | _ => exact .inl rfl

theorem Effect.C_eq_or (h : Effect s i t) : t.C = s.C ∨ i = .enc ∨ i = .dec ∨ i = .clr := by
  cases h with
  | enc | dec | clr => simp
  | _ => exact .inl rfl

theorem Effect.INV_eq_or (h : Effect s i t) : t.INV = s.INV ∨ i = .minv ∨ i = .invk ∨ i = .clr := by
  cases h with
  | minv | invkFound | clr => simp
  | _ => exact .inl rfl

theorem Effect.DET_eq_or (h : Effect s i t) : t.DET = s.DET ∨ i = .det ∨ i = .invk ∨ i = .clr := by
  cases h with
  | det | invkFound | invkNone | clr => simp
  | _ => exact .inl rfl

theorem Effect.DINV_eq_or (h : Effect s i t) : t.DINV = s.DINV ∨ i = .invs ∨ i = .invk ∨ i = .clr := by
  cases h with
  | invsFound | invkFound | clr => simp
  | _ => exact .inl rfl

/-! ## The setters and the clearers of each flag (R22 to R26, R32) -/

theorem Effect.CVAL_cases (h : Effect s i t) : t.CVAL = s.CVAL ∨ (t.CVAL = true ∧ (i = .enc ∨ i = .dec)) ∨
    (t.CVAL = false ∧ ((∃ a b w, i = .wrK a b w) ∨ (∃ b w, i = .wrV b w) ∨ i = .clr)) := by
  cases h with
  | enc | dec | wrK | wrV | clr => simp
  | _ => exact .inl rfl

theorem Effect.DVAL_cases (h : Effect s i t) : t.DVAL = s.DVAL ∨ (t.DVAL = true ∧ (i = .det ∨ i = .invk)) ∨
    (t.DVAL = false ∧ ((∃ a b w, i = .wrK a b w) ∨ i = .clr)) := by
  cases h with
  | det | invkFound | invkNone | wrK | clr => simp
  | _ => exact .inl rfl

theorem Effect.NVAL_cases (h : Effect s i t) : t.NVAL = s.NVAL ∨ (t.NVAL = true ∧ (i = .invs ∨ i = .invk)) ∨
    (t.NVAL = false ∧ ((∃ a b w, i = .wrK a b w) ∨ i = .clr ∨ i = .invs ∨ i = .invk)) := by
  cases h with
  | invsFound | invsNone | invkFound | invkNone | wrK | clr => simp
  | _ => exact .inl rfl

theorem Effect.MVAL_cases (h : Effect s i t) : t.MVAL = s.MVAL ∨ (t.MVAL = true ∧ (i = .minv ∨ i = .invk)) ∨
    (t.MVAL = false ∧ ((∃ a b w, i = .wrK a b w) ∨ i = .clr)) := by
  cases h with
  | minv | invkFound | wrK | clr => simp
  | _ => exact .inl rfl

theorem Effect.NI_cases (h : Effect s i t) : t.NI = s.NI ∨ (t.NI = true ∧ (i = .invs ∨ i = .invk)) ∨
    (t.NI = false ∧ ((∃ a b w, i = .wrK a b w) ∨ i = .clr ∨ i = .invs ∨ i = .invk)) := by
  cases h with
  | invsFound | invsNone | invkFound | invkNone | wrK | clr => simp
  | _ => exact .inl rfl

/-- The two directions of a flag that is kept, or set by its setters, or cleared by its clearers. -/
theorem flag_setters_and_clearers {x y : Bool} {S C : Prop} (h : y = x ∨ (y = true ∧ S) ∨ (y = false ∧ C)) :
    (x = false → y = true → S) ∧ (x = true → y = false → C) := by
  obtain rfl | ⟨rfl, hS⟩ | ⟨rfl, hC⟩ := h
  · cases y <;> simp
  · exact ⟨fun _ _ => hS, fun _ => nofun⟩
  · exact ⟨fun _ => nofun, fun _ _ => hC⟩

/-! ## The recorded cause (R28, R122) -/

theorem OnlyRaises.ne_clr {e : Exc} (h : OnlyRaises s i e) : i ≠ .clr := by
  rintro rfl
  nomatch h

theorem Effect.CAUSE_cases (h : Effect s i t) :
    (i = .clr ∧ t.CAUSE = 0) ∨ (i ≠ .clr ∧ (t.CAUSE = s.CAUSE ∨ ∃ e : Exc, t.CAUSE = e.code)) := by
  cases h with
  | clr => exact .inl ⟨rfl, rfl⟩
  | invsNone | invkNone => exact .inr ⟨nofun, .inr ⟨.notInvertible, rfl⟩⟩
  | onlyRaises hr => exact .inr ⟨hr.ne_clr, .inr ⟨_, rfl⟩⟩
  | _ => exact .inr ⟨nofun, .inl rfl⟩

theorem one_le_code (e : Exc) : 1 ≤ e.code.toNat := by cases e <;> decide

end

/-- Settles O29, by the writers of each register among the outcomes. -/
theorem registersAreWrittenOnlyByTheirWriters : Obligations.RegistersAreWrittenOnlyByTheirWriters := by
  intro i s t h
  have heff := exec_eq_next_iff.mp h
  have hresponse := exec_response h
  exact ⟨heff.K_eq_or.resolve_left, heff.V_eq_or.resolve_left, heff.C_eq_or.resolve_left, heff.INV_eq_or.resolve_left,
    heff.DET_eq_or.resolve_left, heff.DINV_eq_or.resolve_left, exec_requests h,
    fun hne => (hresponse.resolve_left hne).imp fun _ => And.left⟩

/-- Settles O30, by the setters and the clearers of each flag among the outcomes. -/
theorem flagsAreWrittenOnlyByTheirWriters : Obligations.FlagsAreWrittenOnlyByTheirWriters := by
  intro i s t h
  have heff := exec_eq_next_iff.mp h
  obtain ⟨hcSet, hcClear⟩ := flag_setters_and_clearers heff.CVAL_cases
  obtain ⟨hdSet, hdClear⟩ := flag_setters_and_clearers heff.DVAL_cases
  obtain ⟨hnSet, hnClear⟩ := flag_setters_and_clearers heff.NVAL_cases
  obtain ⟨hmSet, hmClear⟩ := flag_setters_and_clearers heff.MVAL_cases
  obtain ⟨hiSet, hiClear⟩ := flag_setters_and_clearers heff.NI_cases
  exact ⟨hcSet, hcClear, hdSet, hdClear, hnSet, hnClear, hmSet, hmClear, hiSet, hiClear⟩

/-- Settles O31: `CAUSE` is kept, or takes the code of an exception, or `CLR` zeroes it. -/
theorem causeIsSticky : Obligations.CauseIsSticky := by
  intro i s t h
  refine (exec_eq_next_iff.mp h).CAUSE_cases.imp_right (And.imp_right (Or.imp_right ?_))
  rintro ⟨e, he⟩
  rw [he]
  exact ⟨one_le_code e, code_le_five e⟩

/-! ## `CVAL` is read by nothing but `STATUS` (R22) -/

/-- No register but `STATUS` shows `CVAL`. -/
theorem regRead_with_cval {a : Reg} (ha : a ≠ .STATUS) (s : State) (b : Bool) :
    regRead a { s with CVAL := b } = regRead a s := by
  cases a with
  | STATUS => exact absurd rfl ha
  | _ => rfl

/-- The exceptions do not depend on `CVAL`. -/
theorem OnlyRaises.with_cval {i : Instr} {s : State} {e : Exc} (h : OnlyRaises s i e) (b : Bool) :
    OnlyRaises { s with CVAL := b } i e := by
  cases h with
  | wrC j => exact .wrC j
  | wrI i j => exact .wrI i j
  | wrD j => exact .wrD j
  | wrStatus => exact .wrStatus
  | illegal w => exact .illegal w
  | encRange hv => exact .encRange hv
  | decRange hm hv => exact .decRange hm hv
  | decMissing hm => exact .decMissing hm
  | invsMissing hd => exact .invsMissing hd
  | minvMissing hn => exact .minvMissing hn

/-- With another `CVAL`, the same outcome: it writes `CVAL` alike or keeps it. -/
theorem Effect.with_cval {i : Instr} {s t : State} (h : Effect s i t) (b : Bool) (hi : i ≠ .rd .STATUS) :
    ∃ b', Effect { s with CVAL := b } i { t with CVAL := b' } ∧ (b' = t.CVAL ∨ (b' = b ∧ t.CVAL = s.CVAL)) := by
  cases h with
  | wrK i j w => exact ⟨false, .wrK i j w, .inl rfl⟩
  | wrV j w => exact ⟨false, .wrV j w, .inl rfl⟩
  | clr => exact ⟨false, .clr, .inl rfl⟩
  | enc hv => exact ⟨true, .enc hv, .inl rfl⟩
  | dec hm hv => exact ⟨true, .dec hm hv, .inl rfl⟩
  | rd a =>
    have hsame := regRead_with_cval (a := a) (by rintro rfl; exact hi rfl) s b
    exact ⟨b, hsame ▸ .rd a, .inr ⟨rfl, rfl⟩⟩
  | nop => exact ⟨b, .nop, .inr ⟨rfl, rfl⟩⟩
  | det => exact ⟨b, .det, .inr ⟨rfl, rfl⟩⟩
  | invsFound hd hq => exact ⟨b, .invsFound hd hq, .inr ⟨rfl, rfl⟩⟩
  | invsNone hd hq => exact ⟨b, .invsNone hd hq, .inr ⟨rfl, rfl⟩⟩
  | minv hn => exact ⟨b, .minv hn, .inr ⟨rfl, rfl⟩⟩
  | invkFound hq => exact ⟨b, .invkFound hq, .inr ⟨rfl, rfl⟩⟩
  | invkNone hq => exact ⟨b, .invkNone hq, .inr ⟨rfl, rfl⟩⟩
  | onlyRaises hr => exact ⟨b, .onlyRaises (hr.with_cval b), .inr ⟨rfl, rfl⟩⟩

/-- Settles O33: each outcome has its counterpart with the other `CVAL`. -/
theorem noCommandReadsCval : Obligations.NoCommandReadsCval := by
  intro i s t b hi h
  obtain ⟨b', heff, hb⟩ := (exec_eq_next_iff.mp h).with_cval b hi
  exact ⟨b', heff.exec, hb⟩

end Sys2Proof.Machine

/-! # The round trip of a pair (45_block_decrypt.md R88) -/

namespace Sys2Proof.Machine

/-! ## The inverse matrix undoes the key -/

/-- A product of residues may be taken before the reduction (R67, R68). -/
theorem emod_mul_add_mul (a b x y : Int) : emod (emod a * emod x + emod b * emod y) = emod (a * x + b * y) :=
  emod_congr (((emod_modEq a).mul (emod_modEq x)).add ((emod_modEq b).mul (emod_modEq y)))

/-- A multiple of the determinant times its inverse is a multiple of 1. -/
theorem emod_mul_of_inverse {d q : Int} (h : emod (d * q) = 1) {x : Int} (h0 : 0 ≤ x) (h1 : x < 26) :
    emod (d * q * x) = x := by
  have hone : d * q ≡ 1 [ZMOD 26] := h
  rw [emod_congr (hone.mul_right x), one_mul, emod_of_residue h0 h1]

theorem uint_bounds_of_inRange {v : Vec2 Word} (hv : inRange v = true) :
    (0 ≤ uint v.x0 ∧ uint v.x0 < 26) ∧ 0 ≤ uint v.x1 ∧ uint v.x1 < 26 := by
  obtain ⟨h0, h1⟩ := (inRange_iff v).mp hv
  exact ⟨⟨uint_nonneg _, Int.ofNat_lt.mpr h0⟩, uint_nonneg _, Int.ofNat_lt.mpr h1⟩

/-- With `q` an inverse of the determinant, `adjinv` is a left inverse of the key on residue pairs (R82, R88). -/
theorem mvmul_adjinv_mvmul_kr {K : Mat2 Word} {q : Int} {v : Vec2 Word} (h : emod (rawDet K * q) = 1)
    (hv : inRange v = true) : mvmul (adjinv K q) (mvmul (kr K) (mapVec uint v)) = mapVec uint v := by
  obtain ⟨⟨h0, h0'⟩, h1, h1'⟩ := uint_bounds_of_inRange hv
  rw [mvmul_kr, adjinv_eq]
  simp only [mvmul, mapVec, emod_mul_add_mul, Vec2.mk.injEq]
  constructor
  · refine .trans (congrArg emod ?_) (emod_mul_of_inverse h h0 h0')
    rw [rawDet]; ring
  · refine .trans (congrArg emod ?_) (emod_mul_of_inverse h h1 h1')
    rw [rawDet]; ring

/-- Under `MVAL`, `DINV` inverts the determinant of the key (R31 (I3) to (I5)). -/
theorem Inv.rawDet_mul_DINV {s : State} (h : Inv s) (hm : s.MVAL = true) : emod (rawDet s.K * uint s.DINV) = 1 := by
  obtain ⟨hn, -⟩ := h.mvalMeansInverseMatrix hm
  obtain ⟨hd, hinv⟩ := h.nvalMeansInverse hn
  rw [h.dvalMeansDeterminant hd, detf_eq] at hinv
  exact (emod_congr ((emod_modEq _).mul_right _)).symm.trans hinv

/-- Under `MVAL`, `DEC`'s product undoes `ENC`'s (R88). -/
theorem Inv.mvmul_INV_mvmul_kr {s : State} {v : Vec2 Word} (h : Inv s) (hm : s.MVAL = true) (hv : inRange v = true) :
    mvmul (mapMat uint s.INV) (mvmul (kr s.K) (mapVec uint v)) = mapVec uint v := by
  rw [(h.mvalMeansInverseMatrix hm).2]
  exact mvmul_adjinv_mvmul_kr (h.rawDet_mul_DINV hm) hv

/-! ## The transactions: a pair, then a command -/

/-- A state into which the host has loaded the pair `v`, with no event to come (R92). -/
def loaded (v : Vec2 Word) (s : State) : State :=
  { s with V := v, CVAL := false, requests := [], response := some 0 }

/-- Two input writes and a transaction: its instruction acts on the loaded state. -/
theorem runs_load {s t : State} {v : Vec2 Word} {w : TransactionWord} (h : exec (decode w) (loaded v s) = .next t) :
    Runs s [.transaction (writeOf (.V false) v.x0), .transaction (writeOf (.V true) v.x1), .transaction w] t := by
  refine runs_transaction (by rw [decode_writeOf]; exact exec_wrV _ _ _) ?_
  refine runs_transaction (by rw [decode_writeOf]; exact exec_wrV _ _ _) ?_
  exact runs_transaction h (runs_nil (exec_requests h))

@[simp] theorem decode_encode_enc : decode (encode .enc) = .enc := by decide

@[simp] theorem decode_encode_dec : decode (encode .dec) = .dec := by decide

/-- A pair in range, then `ENC`: `C` is the product with the key. -/
theorem runs_load_enc {s : State} {v : Vec2 Word} (hv : inRange v = true) :
    Runs s [.transaction (writeOf (.V false) v.x0), .transaction (writeOf (.V true) v.x1), .transaction (encode .enc)]
      (writeOutput (mvmul (kr s.K) (mapVec uint v)) (loaded v s)) := by
  apply runs_load
  rw [decode_encode_enc]
  exact (Effect.enc (s := loaded v s) hv).exec

/-- A pair in range, then `DEC` with `MVAL` = 1: `C` is the product with the inverse matrix. -/
theorem runs_load_dec {s : State} {v : Vec2 Word} (hm : s.MVAL = true) (hv : inRange v = true) :
    Runs s [.transaction (writeOf (.V false) v.x0), .transaction (writeOf (.V true) v.x1), .transaction (encode .dec)]
      (writeOutput (mvmul (mapMat uint s.INV) (mapVec uint v)) (loaded v s)) := by
  apply runs_load
  rw [decode_encode_dec]
  exact (Effect.dec (s := loaded v s) hm hv).exec

/-- A product is a pair in range (R31 (I1)). -/
theorem inRange_mvmul (A : Mat2 Int) (v : Vec2 Int) : inRange (mapVec zext32 (mvmul A v)) = true := by
  simp [inRange, isres, mapVec, mvmul, emod_lt]

@[simp] theorem mapVec_zext32_uint (v : Vec2 Word) : mapVec zext32 (mapVec uint v) = v := by simp [mapVec]

@[simp] theorem loaded_INV (v : Vec2 Word) (s : State) : (loaded v s).INV = s.INV := rfl

/-- Settles O38: the two runs end in the two products, and the second undoes the first. -/
theorem encThenDecRestoresThePair : Obligations.EncThenDecRestoresThePair := by
  intro s p q h hm hp hq
  have hpair : inRange ⟨p, q⟩ = true := (inRange_iff _).mpr ⟨hp, hq⟩
  have henc := runs_load_enc (s := s) hpair
  have hdec := runs_load_dec (s := writeOutput (mvmul (kr s.K) (mapVec uint ⟨p, q⟩)) (loaded ⟨p, q⟩ s)) hm
    (inRange_mvmul (kr s.K) (mapVec uint ⟨p, q⟩))
  refine ⟨_, _, henc, hdec, rfl, rfl, ?_⟩
  simp only [writeOutput_C, writeOutput_INV, loaded_INV, mapVec_uint_zext32_mvmul, h.mvmul_INV_mvmul_kr hm hpair,
    mapVec_zext32_uint]

end Sys2Proof.Machine

/-! # The port and its register map (20_memory.md R35 to R38, R47) -/

namespace Sys2Proof.Machine

/-! ## The register map (R35, R53) -/

@[simp] theorem indexOf_regOfIndex : ∀ a : BitVec 4, indexOf (regOfIndex a) = a := by decide

/-- Settles O2: each index of the table is the encoder's, which the decoder inverts. -/
theorem registerMapIsAsTabled : Obligations.RegisterMapIsAsTabled :=
  ⟨fun i j => ⟨regOfIndex_indexOf (.K i j), regOfIndex_indexOf (.V j), regOfIndex_indexOf (.C j),
      regOfIndex_indexOf (.INV i j)⟩,
    regOfIndex_indexOf .DET, regOfIndex_indexOf .DINV, regOfIndex_indexOf .STATUS, regOfIndex_indexOf .CMD,
    indexOf_regOfIndex, regOfIndex_indexOf⟩

/-! ## Completion of the next transaction, and the response to a write (R37, R38, R61) -/

theorem decodeCommand_ne_rd (w : Word) (a : Reg) : decodeCommand w ≠ .rd a := by
  rw [decodeCommand]
  split
  · nofun
  · split <;> nofun

theorem decodeWrite_ne_rd (r : Reg) (w : Word) (a : Reg) : decodeWrite r w ≠ .rd a := by
  cases r with
  | CMD => exact decodeCommand_ne_rd w a
  | _ => nofun

/-- A write decodes to no read (R64). -/
theorem decode_ne_rd_of_weOf {t : TransactionWord} (h : weOf t = true) (a : Reg) : decode t ≠ .rd a := by
  rw [decode, if_pos h]
  exact decodeWrite_ne_rd _ _ a

/-- The response to a write is 0 (R37). -/
theorem response_of_write {t : TransactionWord} {s u : State} (hw : weOf t = true)
    (h : step (present (.transaction t) s) = .next u) : u.response = some 0 := by
  obtain hkept | ⟨a, hread, -⟩ := exec_response ((step_present t s).symm.trans h)
  · exact hkept
  · exact absurd hread (decode_ne_rd_of_weOf hw a)

/-- A state with an event next is one to which the event was offered. -/
theorem eq_present_of_requests {s : State} {e : Event} {rest : List Event} (h : s.requests = e :: rest) :
    s = present e { s with requests := rest } := by
  rw [present, ← h]

theorem step_completes (s : State) : ∃ t, step s = .next t := by
  match hr : s.requests with
  | [] => exact ⟨s, step_idle hr⟩
  | e :: rest =>
    obtain ⟨t, ht, -⟩ := step_present_completes e { s with requests := rest }
    exact ⟨t, eq_present_of_requests hr ▸ ht⟩

/-- Settles O11: an offered transaction is taken and answered, and a state with one next is one to which it was offered. -/
theorem everyTransactionCompletes : Obligations.EveryTransactionCompletes := by
  refine ⟨step_completes, fun s t rest hr => ?_⟩
  obtain ⟨u, w, hu, hreq, hw⟩ := step_transaction_responds t { s with requests := rest }
  refine ⟨u, w, eq_present_of_requests hr ▸ hu, hreq, hw, fun hwrite => ?_⟩
  exact Option.some.inj (hw.symm.trans (response_of_write hwrite hu))

/-! ## The answered transactions at clock edges (R37, R38, R127) -/

/-- A transaction takes effect exactly at the end of its response cycle, without reset (log 9). -/
theorem eventAt_eq_transaction_iff {i : PortIn} {c : Clocked} {t : TransactionWord} :
    eventAt i c = some (.transaction t) ↔ i.rst = false ∧ c.phase = .responding t := by
  match hrst : i.rst, hp : c.phase with
  | true, _ => simp [eventAt, hrst]
  | false, .responding u => simp [eventAt, hrst, hp]
  | false, .underReset | false, .idle | false, .busy _ _ => simp [eventAt, hrst, hp]

/-- Only a response cycle without reset has a response (R126). -/
theorem responding_of_rsp {rst : Bool} {c : Clocked} {w : Word} (h : (portOut rst c).rsp = some w) :
    rst = false ∧ ∃ t, c.phase = .responding t := by
  match rst, hp : c.phase with
  | true, _ => nomatch h
  | false, .responding t => exact ⟨rfl, t, rfl⟩
  | false, .underReset | false, .idle | false, .busy _ _ => simp [portOut, hp] at h

/-- A response cycle shows the response of the step that performs the transaction. -/
theorem portOut_responding {b u : State} {t : TransactionWord} (h : step (present (.transaction t) b) = .next u) :
    portOut false ⟨b, .responding t⟩ = ⟨false, u.response⟩ := by
  simp [portOut, responseOf_of_step h]

/-- Settles O52: both an effect and an answer are those of a response cycle without reset. -/
theorem exactlyTheAnsweredTransactionsTakeEffect : Obligations.ExactlyTheAnsweredTransactionsTakeEffect := by
  intro i ⟨b, phase⟩
  constructor
  · intro t hevent
    obtain ⟨hrst, hphase⟩ := eventAt_eq_transaction_iff.mp hevent
    obtain rfl : phase = .responding t := hphase
    obtain ⟨u, w, hstep, -, hw⟩ := step_transaction_responds t b
    exact ⟨u, w, hstep, hw, by rw [hrst, portOut_responding hstep, hw], edge_responding hrst hstep⟩
  · intro w hrsp
    obtain ⟨hrst, t, hphase⟩ := responding_of_rsp hrsp
    exact ⟨t, eventAt_eq_transaction_iff.mpr ⟨hrst, hphase⟩⟩

/-! ## Repetition (R47, R112)

No instruction writes what it reads, so performing it again computes the same values and stores them over themselves. -/

theorem keyWrite_keyWrite (i j : Bool) (w : Word) (s : State) :
    clearFlags (writeKey i j w (clearFlags (writeKey i j w s))) = clearFlags (writeKey i j w s) := by
  simp [writeKey, clearFlags]

theorem inputWrite_inputWrite (j : Bool) (w : Word) (s : State) :
    clearCval (writeInput j w (clearCval (writeInput j w s))) = clearCval (writeInput j w s) := by
  simp [writeInput, clearCval]

/-- No register shows the response. -/
@[simp] theorem regRead_respond (a : Reg) (w : Word) (s : State) : regRead a (respond w s) = regRead a s := by
  cases a <;> rfl

/-- No exception depends on the recorded cause (R122). -/
theorem OnlyRaises.with_cause {i : Instr} {s : State} {e : Exc} (h : OnlyRaises s i e) (c : BitVec 4) :
    OnlyRaises { s with CAUSE := c } i e := by
  cases h with
  | wrC j => exact .wrC j
  | wrI i j => exact .wrI i j
  | wrD j => exact .wrD j
  | wrStatus => exact .wrStatus
  | illegal w => exact .illegal w
  | encRange hv => exact .encRange hv
  | decRange hm hv => exact .decRange hm hv
  | decMissing hm => exact .decMissing hm
  | invsMissing hd => exact .invsMissing hd
  | minvMissing hn => exact .minvMissing hn

/-- From the state an instruction has left, the outcome is that state again. -/
theorem Effect.repeated {i : Instr} {s t : State} (h : Effect s i t) : Effect t i t := by
  cases h with
  | rd a =>
    have hagain := Effect.rd (s := respond (regRead a s) s) a
    rwa [regRead_respond] at hagain
  | wrK i j w =>
    have hagain := Effect.wrK (s := clearFlags (writeKey i j w s)) i j w
    rwa [keyWrite_keyWrite] at hagain
  | wrV j w =>
    have hagain := Effect.wrV (s := clearCval (writeInput j w s)) j w
    rwa [inputWrite_inputWrite] at hagain
  | nop => exact .nop
  | clr => exact .clr
  | enc hv => exact .enc hv
  | dec hm hv => exact .dec hm hv
  | det => exact .det
  | invsFound hd hq => exact .invsFound hd hq
  | invsNone hd hq => exact .invsNone hd hq
  | minv hn => exact .minv hn
  | invkFound hq => exact .invkFound hq
  | invkNone hq => exact .invkNone hq
  | onlyRaises hr => exact .onlyRaises (hr.with_cause _)

/-- Settles O34: what an instruction has left is an outcome of the same instruction from there. -/
theorem repeatingATransactionChangesNothing : Obligations.RepeatingATransactionChangesNothing :=
  fun _ _ _ h => (exec_eq_next_iff.mp h).repeated.exec

end Sys2Proof.Machine

/-! # The encoding: the decoder and the encoder are inverse, and the rows of the table (30_encoding.md R51 to R64) -/

namespace Sys2Proof

/-! ## The command words (R58 to R60) -/

/-- The eight command words, one by one. -/
theorem isCommandWord_cases {w : Word} (h : isCommandWord w = true) :
    w = 0 ∨ w = 1 ∨ w = 2 ∨ w = 3 ∨ w = 4 ∨ w = 5 ∨ w = 6 ∨ w = 7 := by
  have hw : w.toNat < 8 := of_decide_eq_true h
  bv_omega

/-- Every other word is an illegal command: by a bit above bit 7 (R60), or by its low byte (R59). -/
theorem decodeCommand_of_not_command {w : Word} (h : isCommandWord w = false) : decodeCommand w = .illegal w := by
  have hw : ¬ w.toNat < 8 := of_decide_eq_false h
  rw [decodeCommand]
  split
  case isTrue => rfl
  case isFalse hhigh =>
    have hlow : (w.extractLsb' 0 8).toNat = w.toNat := by
      have hzero : (w.extractLsb' 8 24).toNat = 0 := congrArg BitVec.toNat (not_not.mp hhigh)
      rw [BitVec.extractLsb'_toNat, Nat.shiftRight_eq_div_pow] at hzero
      rw [BitVec.extractLsb'_toNat, Nat.shiftRight_zero]
      omega
    rw [hlow]
    split
    case h_9 => rfl
    all_goals omega

/-- What a command word decodes to is encoded as that word again. -/
@[simp] theorem encode_decodeCommand (w : Word) : encode (decodeCommand w) = writeOf .CMD w := by
  match h : isCommandWord w with
  | true => obtain rfl | rfl | rfl | rfl | rfl | rfl | rfl | rfl := isCommandWord_cases h <;> rfl
  | false => rw [decodeCommand_of_not_command h, encode]

theorem wellFormed_decodeCommand (w : Word) : (decodeCommand w).wellFormed = true := by
  match h : isCommandWord w with
  | true => obtain rfl | rfl | rfl | rfl | rfl | rfl | rfl | rfl := isCommandWord_cases h <;> rfl
  | false => rw [decodeCommand_of_not_command h, Instr.wellFormed, h, Bool.not_false]

/-! ## Decoding what was encoded (R58, R64) -/

/-- Each instruction is a read or a write of its register, and a write to `CMD` is told apart by its word. -/
theorem decode_encode {i : Instr} (h : i.wellFormed = true) : decode (encode i) = i := by
  cases i with
  | rd a => exact decode_readOf a
  | wrK i j w => exact decode_writeOf (.K i j) w
  | wrV j w => exact decode_writeOf (.V j) w
  | wrC j => exact decode_writeOf (.C j) 0
  | wrI i j => exact decode_writeOf (.INV i j) 0
  | wrD j => cases j <;> exact decode_writeOf _ 0
  | wrStatus => exact decode_writeOf .STATUS 0
  | nop | enc | det | invs | minv | invk | dec | clr => exact decode_writeOf .CMD _
  | illegal w =>
    have hw : isCommandWord w = false := (Bool.not_eq_true' _).mp h
    exact (decode_writeOf .CMD w).trans (decodeCommand_of_not_command hw)

/-- Settles O3, by the cases of the instruction. -/
theorem decodeOfEncodeIsTheInstruction : Obligations.DecodeOfEncodeIsTheInstruction := fun _ => decode_encode

/-! ## Encoding what was decoded (R54, R93 to R96) -/

/-- The registers that take the written word: a write to any other one ignores it (R93 to R96, log 5). -/
def Reg.takesWord : Reg → Bool
  | .K _ _ => true
  | .V _ => true
  | .C _ => false
  | .INV _ _ => false
  | .DET => false
  | .DINV => false
  | .STATUS => false
  | .CMD => true

/-- They have the indices 0 to 5 and 15 (R35). -/
theorem takesWord_regOfIndex : ∀ a : BitVec 4, (regOfIndex a).takesWord = true ↔ a.toNat < 6 ∨ a.toNat = 15 := by decide

/-- A decoded write is encoded as that write, without an ignored word. -/
theorem encode_decodeWrite (r : Reg) (w : Word) :
    encode (decodeWrite r w) = writeOf r (if r.takesWord then w else 0) := by
  cases r with
  | CMD => exact encode_decodeCommand w
  | _ => rfl

theorem wellFormed_decodeWrite (r : Reg) (w : Word) : (decodeWrite r w).wellFormed = true := by
  cases r with
  | CMD => exact wellFormed_decodeCommand w
  | _ => rfl

/-- The mask of `we` and `addr` drops `wdata` (R51). -/
theorem transactionWord_and_header (we : Bool) (a : BitVec 4) (w : Word) :
    transactionWord we a w &&& 0x1F00000000 = transactionWord we a 0 := by
  rw [show (0x1F00000000 : TransactionWord) = transactionWord true (BitVec.allOnes 4) 0 from rfl, transactionWord_and,
    Bool.and_true, BitVec.and_allOnes]
  exact congrArg _ BitVec.and_zero

theorem readOf_regOfIndex (a : BitVec 4) : readOf (regOfIndex a) = transactionWord false a 0 := by
  rw [readOf, Machine.indexOf_regOfIndex]

theorem writeOf_regOfIndex (a : BitVec 4) (w : Word) : writeOf (regOfIndex a) w = transactionWord true a w := by
  rw [writeOf, Machine.indexOf_regOfIndex]

/-- Settles O4: a read forgets its word, a write forgets it unless the register takes it. -/
theorem decodeForgetsOnlyIgnoredData : Obligations.DecodeForgetsOnlyIgnoredData := by
  intro t
  rw [eq_transactionWord t]
  generalize wdataOf t = w, addrOf t = a
  rw [weOf_transactionWord, addrOf_transactionWord, transactionWord_and_header]
  match weOf t with
  | false =>
    rw [decode_read]
    exact ⟨rfl, readOf_regOfIndex a⟩
  | true =>
    rw [decode_write, encode_decodeWrite, writeOf_regOfIndex]
    refine ⟨wellFormed_decodeWrite _ w, ?_⟩
    simp only [takesWord_regOfIndex, true_and]
    split <;> rfl

/-! ## The rows of the opcode table (R58) -/

/-- The named rows that select a word. -/
def rowsOf (t : TransactionWord) : List OpcodeRow := namedRows.filter fun r => r.selects t

/-- A read: `we` shuts out every other row. -/
theorem rowsOf_read (a : BitVec 4) (w : Word) : rowsOf (transactionWord false a w) = [Instr.row (.rd (regOfIndex a))] := by
  simp [rowsOf, namedRows, selects_transactionWord, Instr.row, weOf, addrOf, wdataOf]

/-- A named row looks at `wdata` only in a write to `CMD`. -/
theorem wdata_mask_of_namedRow : ∀ r ∈ namedRows, wdataOf r.mask = 0 ∨ (addrOf r.mask = 15 ∧ addrOf r.fixed = 15) := by
  decide

/-- So at any other index the word has no part in the selection. -/
theorem rowsOf_ignores_wdata {a : BitVec 4} (ha : a ≠ 15) (we : Bool) (w : Word) :
    rowsOf (transactionWord we a w) = rowsOf (transactionWord we a 0) := by
  refine List.filter_congr fun r hr => ?_
  rw [selects_transactionWord, selects_transactionWord]
  obtain hmask | ⟨hmask, hfixed⟩ := wdata_mask_of_namedRow r hr
  · rw [hmask, show w &&& 0 = 0 &&& 0 from BitVec.and_zero]
  · have hne : (a &&& 15 == 15) = false := by
      rw [show a &&& 15 = a from BitVec.and_allOnes]
      exact beq_false_of_ne ha
    rw [hmask, hfixed, hne, Bool.and_false, Bool.false_and, Bool.false_and]

/-- A write to an index other than that of `CMD`: the index decides. -/
theorem rowsOf_write {a : BitVec 4} (ha : a ≠ 15) (w : Word) :
    rowsOf (transactionWord true a w) = [(decodeWrite (regOfIndex a) w).row] := by
  have hrow : (decodeWrite (regOfIndex a) w).row = (decodeWrite (regOfIndex a) 0).row := by
    match hr : regOfIndex a with
    | .CMD => exact absurd ((Machine.indexOf_regOfIndex a).symm.trans (congrArg indexOf hr)) ha
    | .K _ _ | .V _ | .C _ | .INV _ _ | .DET | .DINV | .STATUS => rfl
  have hzero : ∀ b : BitVec 4, b ≠ 15 → rowsOf (transactionWord true b 0) = [(decodeWrite (regOfIndex b) 0).row] := by
    decide
  rw [rowsOf_ignores_wdata ha, hrow, hzero a ha]

/-- A write to `CMD` of a command word: the whole word decides. -/
theorem rowsOf_command {w : Word} (h : isCommandWord w = true) :
    rowsOf (transactionWord true 15 w) = [(decodeCommand w).row] := by
  obtain rfl | rfl | rfl | rfl | rfl | rfl | rfl | rfl := isCommandWord_cases h <;> decide

/-- A write to `CMD` of any other word: no named row. -/
theorem rowsOf_illegal {w : Word} (h : isCommandWord w = false) : rowsOf (transactionWord true 15 w) = [] := by
  have hne {c : Word} (hc : isCommandWord c = true) : w ≠ c := by
    rintro rfl
    rw [h] at hc
    nomatch hc
  have hmask : w &&& 0xFFFFFFFF#32 = w := BitVec.and_allOnes
  have hwords : w ≠ 0 ∧ w ≠ 1 ∧ w ≠ 2 ∧ w ≠ 3 ∧ w ≠ 4 ∧ w ≠ 5 ∧ w ≠ 6 ∧ w ≠ 7 :=
    ⟨hne rfl, hne rfl, hne rfl, hne rfl, hne rfl, hne rfl, hne rfl, hne rfl⟩
  simpa [rowsOf, namedRows, selects_transactionWord, Instr.row, weOf, addrOf, wdataOf, hmask] using hwords

/-- One named row, that of the decoded instruction, or none and an illegal command. -/
theorem rowsOf_eq_or (t : TransactionWord) : rowsOf t = [(decode t).row] ∨
    (rowsOf t = [] ∧ ∃ w, decode t = .illegal w ∧ t = encode (.illegal w)) := by
  rw [eq_transactionWord t]
  generalize wdataOf t = w, addrOf t = a
  match weOf t with
  | false => exact .inl (by rw [rowsOf_read, decode_read])
  | true =>
    rw [decode_write]
    by_cases ha : a = 15
    · subst ha
      rw [show regOfIndex 15 = .CMD from rfl, decodeWrite]
      match h : isCommandWord w with
      | true => exact .inl (rowsOf_command h)
      | false => exact .inr ⟨rowsOf_illegal h, w, decodeCommand_of_not_command h, rfl⟩
    · exact .inl (rowsOf_write ha w)

/-- Settles O5: the rows that select a word are that of its decoded instruction alone, or none for an illegal command, which the
default row selects. -/
theorem everyWordHasExactlyOneMeaning : Obligations.EveryWordHasExactlyOneMeaning := by
  intro t
  obtain hone | ⟨hnone, w, hill, ht⟩ := rowsOf_eq_or t
  · have hmem : (decode t).row ∈ rowsOf t := hone ▸ List.mem_singleton_self _
    exact ⟨(List.mem_filter.mp hmem).2, .inl hone⟩
  · refine ⟨?_, .inr ⟨hnone, w, hill⟩⟩
    rw [hill, ht]
    exact Laws.MatchesRow.illegal w

/-! ## Illegal command words (R59, R60, R113) -/

/-- Settles O6: a word of 8 or more is no command word, so that it decodes to an illegal command, which only records its cause. -/
theorem otherCommandWordsRaiseIllegalCommand : Obligations.OtherCommandWordsRaiseIllegalCommand := by
  refine ⟨fun w s => Machine.exec_illegal w s, fun w s rest hw hr => ?_⟩
  have hill : isCommandWord w = false := decide_eq_false (Nat.not_lt.mpr hw)
  rw [Machine.step_transaction hr, decode_write, show decodeWrite (regOfIndex 15) w = decodeCommand w from rfl,
    decodeCommand_of_not_command hill]
  exact Machine.exec_illegal w _

/-- Settles O1, by decoding each of the words. -/
theorem tableWordsDecodeAsListed : Obligations.TableWordsDecodeAsListed := by
  unfold Obligations.TableWordsDecodeAsListed
  decide

end Sys2Proof

/-! # The round trip of a text (47_host_sequences.md R99 to R107, 45_block_decrypt.md R88) -/

namespace Sys2Proof.Machine

/-! ## Letters and residues (R99) -/

theorem isCapital_iff {c : Char} : isCapital c = true ↔ 65 ≤ c.toNat ∧ c.toNat ≤ 90 := by simp [isCapital]

theorem isSmall_iff {c : Char} : isSmall c = true ↔ 97 ≤ c.toNat ∧ c.toNat ≤ 122 := by simp [isSmall]

/-- Every code below the surrogates is that of a character. -/
theorem toNat_charOfNat {n : Nat} (h : n < 0xd800) : (Char.ofNat n).toNat = n := by
  rw [Char.toNat_ofNat, if_pos (.inl h)]

theorem residueOf_bounds {c : Char} (h : isCapital c = true) : 0 ≤ residueOf c ∧ residueOf c < 26 := by
  obtain ⟨h65, h90⟩ := isCapital_iff.mp h
  rw [residueOf]
  omega

theorem letterOf_zext32_residueOf {c : Char} (h : isCapital c = true) : letterOf (zext32 (residueOf c)) = c := by
  obtain ⟨h0, h26⟩ := residueOf_bounds h
  have hcode : ((zext32 (residueOf c)).toNat : Int) = c.toNat - 65 := uint_zext32 h0 (by omega)
  rw [letterOf, show 65 + (zext32 (residueOf c)).toNat = c.toNat by omega, Char.ofNat_toNat]

theorem toNat_letterOf {w : Word} (h : w.toNat < 26) : (letterOf w).toNat = 65 + w.toNat :=
  toNat_charOfNat (by omega)

theorem isCapital_letterOf {w : Word} (h : w.toNat < 26) : isCapital (letterOf w) = true := by
  rw [isCapital_iff, toNat_letterOf h]
  omega

theorem residueOf_letterOf {w : Word} (h : w.toNat < 26) : residueOf (letterOf w) = w.toNat := by
  rw [residueOf, toNat_letterOf h]
  omega

/-! ## What `normalize` gives (R100 to R102) -/

theorem isCapital_capital {c : Char} (h : (isCapital c || isSmall c) = true) : isCapital (capital c) = true := by
  rw [capital]
  split
  case isTrue hs =>
    obtain ⟨h97, h122⟩ := isSmall_iff.mp hs
    rw [isCapital_iff, toNat_charOfNat (by omega)]
    omega
  case isFalse hs => simpa [hs] using h

theorem length_padEven (t : List Char) : (padEven t).length % 2 = 0 := by
  rw [padEven]
  split
  · rw [List.length_append, List.length_singleton]; omega
  · omega

theorem mem_padEven {t : List Char} {c : Char} (h : c ∈ padEven t) : c ∈ t ∨ c = 'X' := by
  rw [padEven] at h
  split at h
  · simpa using h
  · exact .inl h

theorem isCapital_of_mem_normalizeText {raw : List Char} {c : Char} (h : c ∈ normalizeText raw) : isCapital c = true := by
  obtain h | rfl := mem_padEven h
  · obtain ⟨b, hb, rfl⟩ := List.mem_map.mp h
    exact isCapital_capital (List.mem_filter.mp hb).2
  · rfl

/-! ## Pairs of letters as pairs of words -/

/-- The words of a pair of letters, as the host loads them (R104). -/
def pairWords (p q : Char) : Vec2 Word := ⟨zext32 (residueOf p), zext32 (residueOf q)⟩

/-- The product a block command writes for a pair (R73, R87). -/
def productWords (M : Mat2 Int) (v : Vec2 Word) : Vec2 Word := mapVec zext32 (mvmul M (mapVec uint v))

theorem inRange_productWords (M : Mat2 Int) (v : Vec2 Word) : inRange (productWords M v) = true := inRange_mvmul M _

theorem inRange_pairWords {p q : Char} (hp : isCapital p = true) (hq : isCapital q = true) :
    inRange (pairWords p q) = true := by
  have hres {c : Char} (hc : isCapital c = true) : isres (zext32 (residueOf c)) = true := by
    obtain ⟨h0, h26⟩ := residueOf_bounds hc
    exact decide_eq_true (by rwa [uint_zext32 h0 (by omega)])
  rw [pairWords, inRange, hres hp, hres hq, Bool.and_self]

/-- The letters of a pair in range stand for its words. -/
theorem pairWords_letterOf {v : Vec2 Word} (hv : inRange v = true) : pairWords (letterOf v.x0) (letterOf v.x1) = v := by
  obtain ⟨h0, h1⟩ := (inRange_iff v).mp hv
  rw [pairWords, residueOf_letterOf h0, residueOf_letterOf h1]
  exact mapVec_zext32_uint v

/-- With `q` an inverse of the determinant, the product with `adjinv` undoes that with the key. -/
theorem productWords_adjinv {K : Mat2 Word} {q : Int} {v : Vec2 Word} (h : emod (rawDet K * q) = 1) (hv : inRange v = true) :
    productWords (adjinv K q) (productWords (kr K) v) = v := by
  rw [productWords, productWords, mapVec_uint_zext32_mvmul, mvmul_adjinv_mvmul_kr h hv, mapVec_zext32_uint]

/-! ## The text a matrix makes of a text -/

/-- Each pair of letters becomes the letters of its product (R104, R105). -/
def productText (M : Mat2 Int) : List Char → List Char
  | p :: q :: rest =>
    letterOf (productWords M (pairWords p q)).x0 :: letterOf (productWords M (pairWords p q)).x1 :: productText M rest
  | _ => []

/-- A text of capitals in pairs. -/
inductive PairText : List Char → Prop
  | nil : PairText []
  | cons {p q : Char} {rest : List Char} (hp : isCapital p = true) (hq : isCapital q = true) (hrest : PairText rest) :
      PairText (p :: q :: rest)

/-- Such a text is not refused. -/
theorem PairText.textError {t : List Char} (h : PairText t) : textError t = none := by
  rw [textError_eq_none]
  induction h with
  | nil => simp
  | cons hp hq _ ih =>
    obtain ⟨hcap, hlen⟩ := ih
    simp only [List.forall_mem_cons, List.length_cons]
    exact ⟨⟨hp, hq, hcap⟩, by omega⟩

/-- Capitals of even length come in pairs. -/
theorem PairText.of_even : ∀ {t : List Char}, (∀ c ∈ t, isCapital c = true) → t.length % 2 = 0 → PairText t
  | [], _, _ => .nil
  | [_], _, hlen => nomatch hlen
  | p :: q :: rest, hcap, hlen => by
    simp only [List.forall_mem_cons, List.length_cons] at hcap hlen
    obtain ⟨hp, hq, hrest⟩ := hcap
    exact .cons hp hq (.of_even hrest (by omega))

theorem pairText_normalizeText (raw : List Char) : PairText (normalizeText raw) :=
  .of_even (fun _ => isCapital_of_mem_normalizeText) (length_padEven _)

/-- The product of such a text is one again. -/
theorem PairText.productText (M : Mat2 Int) {t : List Char} (h : PairText t) : PairText (productText M t) := by
  induction h with
  | nil => exact .nil
  | @cons p q _ _ _ _ ih =>
    obtain ⟨h0, h1⟩ := (inRange_iff _).mp (inRange_productWords M (pairWords p q))
    exact .cons (isCapital_letterOf h0) (isCapital_letterOf h1) ih

/-- The product with `adjinv` undoes that with the key, pair by pair. -/
theorem PairText.productText_adjinv {K : Mat2 Word} {i : Int} {t : List Char} (hi : emod (rawDet K * i) = 1)
    (h : PairText t) : Machine.productText (adjinv K i) (Machine.productText (kr K) t) = t := by
  induction h with
  | nil => rfl
  | cons hp hq _ ih =>
    rw [Machine.productText, Machine.productText, ih, pairWords_letterOf (inRange_productWords _ _),
      productWords_adjinv hi (inRange_pairWords hp hq)]
    simp only [pairWords, letterOf_zext32_residueOf hp, letterOf_zext32_residueOf hq]

/-! ## Issuing transactions (R38) -/

@[simp] theorem andThen_next {α β : Type} (a : α) (f : α → Host.Outcome β Fault Refusal) : andThen (.next a) f = f a := rfl

/-- The host gets the state and the response that the instruction leaves. -/
theorem issue_of_exec {t : TransactionWord} {s u : State} (h : exec (decode t) (accept s.requests s) = .next u) :
    issue t s = .next (u, u.response.getD 0) := by
  rw [issue, step_present, h, andThen_next]

@[simp] theorem issue_readOf (a : Reg) (s : State) : issue (readOf a) s = .next (respond (regRead a s) s, regRead a s) := by
  have hsame : regRead a (accept s.requests s) = regRead a s := by cases a <;> rfl
  have hread : exec (decode (readOf a)) (accept s.requests s) = .next (respond (regRead a s) s) := by
    rw [decode_readOf, exec_rd, hsame]; rfl
  exact issue_of_exec hread

theorem issue_writeOf_K (i j : Bool) (w : Word) (s : State) :
    issue (writeOf (.K i j) w) s = .next (clearFlags (writeKey i j w (accept s.requests s)), 0) :=
  issue_of_exec (by rw [decode_writeOf]; exact exec_wrK i j w _)

theorem issue_writeOf_V (j : Bool) (w : Word) (s : State) :
    issue (writeOf (.V j) w) s = .next (clearCval (writeInput j w (accept s.requests s)), 0) :=
  issue_of_exec (by rw [decode_writeOf]; exact exec_wrV j w _)

theorem issueAll_nil (s : State) : issueAll [] s = .next (s, []) := rfl

theorem issueAll_cons {t : TransactionWord} {ts : List TransactionWord} {s u v : State} {w : Word} {ws : List Word}
    (h : issue t s = .next (u, w)) (hs : issueAll ts u = .next (v, ws)) : issueAll (t :: ts) s = .next (v, w :: ws) := by
  rw [issueAll, h, andThen_next, hs, andThen_next]

/-- Bits 0 and 3 of `STATUS`, which the host looks at (R21). -/
theorem statusWord_valid_bits (s : State) :
    (statusWord s).getLsbD 0 = s.CVAL ∧ (statusWord s).getLsbD 3 = s.MVAL := by
  obtain ⟨v, hread, hcval, -, -, hmval, -⟩ := statusReadsAsLaidOut s
  obtain rfl : statusWord s = v := Option.some.inj (congrArg State.response (Host.Outcome.next.inj hread))
  exact ⟨hcval, hmval⟩

/-! ## One pair through the block (R104, R105) -/

/-- The matrix a block command multiplies by: the reduced key, or the inverse matrix while it is valid (R73, R87). -/
def Direction.Uses (d : Direction) (M : Mat2 Int) (s : State) : Prop :=
  match d with
  | .encrypting => M = kr s.K
  | .decrypting => s.MVAL = true ∧ M = mapMat uint s.INV

/-- With a pair in range the command writes its product. -/
theorem Direction.Uses.exec_command {d : Direction} {M : Mat2 Int} {s : State} (h : d.Uses M s)
    (hv : inRange s.V = true) : exec (decode d.command) s = .next (writeOutput (mvmul M (mapVec uint s.V)) s) := by
  cases d with
  | encrypting =>
    obtain rfl : M = kr s.K := h
    rw [Direction.command, decode_encode_enc]
    exact (Effect.enc hv).exec
  | decrypting =>
    obtain ⟨hm, rfl⟩ := h
    rw [Direction.command, decode_encode_dec]
    exact (Effect.dec hm hv).exec

/-- A state into which the host has loaded a pair. -/
def withPair (v : Vec2 Word) (s : State) : State := { s with V := v, CVAL := false, response := some 0 }

/-- Which matrix that is depends on the key, on `MVAL` and on the inverse matrix only. -/
theorem Direction.Uses.congr {d : Direction} {M : Mat2 Int} {s t : State} (h : d.Uses M s) (hK : t.K = s.K)
    (hm : t.MVAL = s.MVAL) (hi : t.INV = s.INV) : d.Uses M t := by
  cases d with
  | encrypting => rwa [Direction.Uses, hK]
  | decrypting => rwa [Direction.Uses, hm, hi]

/-- The pair is loaded and the command performed. -/
theorem Direction.Uses.issueAll_pair {d : Direction} {M : Mat2 Int} {s : State} {v : Vec2 Word} (h : d.Uses M s)
    (hv : inRange v = true) :
    issueAll [writeOf (.V false) v.x0, writeOf (.V true) v.x1, d.command] s =
      .next (writeOutput (mvmul M (mapVec uint v)) (withPair v s), [0, 0, 0]) := by
  have huses : d.Uses M (withPair v s) := h.congr rfl rfl rfl
  refine issueAll_cons (issue_writeOf_V _ _ _) (issueAll_cons (issue_writeOf_V _ _ _) (issueAll_cons ?_ (issueAll_nil _)))
  exact issue_of_exec (huses.exec_command hv)

/-- After a load and a command that has set `CVAL`, the host reads the letters of `C` (R104, H3). -/
theorem processPair_of_cval {d : Direction} {p q : Char} {s t : State} {ws : List Word}
    (h : issueAll [writeOf (.V false) (pairWords p q).x0, writeOf (.V true) (pairWords p q).x1, d.command] s = .next (t, ws))
    (hc : t.CVAL = true) :
    processPair d p q s = .next (respond t.C.x1 t, .ok (letterOf t.C.x0, letterOf t.C.x1)) := by
  rw [pairWords] at h
  have hvalid : (statusWord t).getLsbD 0 = true := (statusWord_valid_bits t).1.trans hc
  rw [processPair, h]
  simp only [andThen_next, issue_readOf, regRead, hvalid, if_true]
  rfl

/-- A pair of capitals becomes the letters of its product. -/
theorem Direction.Uses.processPair {d : Direction} {M : Mat2 Int} {s : State} {p q : Char} (h : d.Uses M s)
    (hp : isCapital p = true) (hq : isCapital q = true) : ∃ t, d.Uses M t ∧ processPair d p q s =
      .next (t, .ok (letterOf (productWords M (pairWords p q)).x0, letterOf (productWords M (pairWords p q)).x1)) := by
  refine ⟨_, ?_, processPair_of_cval (h.issueAll_pair (inRange_pairWords hp hq)) rfl⟩
  exact h.congr rfl rfl rfl

/-- A text of pairs becomes its product text. -/
theorem Direction.Uses.processPairs {d : Direction} {M : Mat2 Int} {s : State} {t : List Char} (h : d.Uses M s)
    (ht : PairText t) : ∃ u, processPairs d t s = .next (u, .ok (productText M t)) := by
  induction ht generalizing s with
  | nil => exact ⟨s, rfl⟩
  | cons hp hq _ ih =>
    obtain ⟨u, huses, hpair⟩ := h.processPair hp hq
    obtain ⟨v, hrest⟩ := ih huses
    exact ⟨v, by rw [Machine.processPairs, hpair, andThen_next, hrest]; rfl⟩

theorem Direction.Uses.processText {d : Direction} {M : Mat2 Int} {s : State} {t : List Char} (h : d.Uses M s)
    (ht : PairText t) : ∃ u, processText d t s = .next (u, .ok (productText M t)) := by
  rw [processText_of_accepted s ht.textError]
  exact h.processPairs ht

/-! ## The key as the host writes it (R63, R106) -/

/-- The four words of a key of integers. -/
abbrev keyWords (A : Mat2 Int) : Mat2 Word := mapMat hostKeyWord A

theorem sint_ofInt {v : Int} (h0 : -2147483648 ≤ v) (h1 : v < 2147483648) : sint (BitVec.ofInt 32 v) = v := by
  rw [sint, BitVec.toInt_ofInt, Int.bmod_eq_of_le (by omega) (by omega)]

/-- Each of them is congruent to its integer, reduced by the host or not. -/
theorem sint_hostKeyWord_modEq (v : Int) : sint (hostKeyWord v) ≡ v [ZMOD 26] := by
  rw [hostKeyWord]
  split
  case isTrue hfits => rw [sint_ofInt hfits.1 hfits.2]
  case isFalse =>
    have hv0 := emod_nonneg v
    have hv1 := emod_lt v
    rw [zext32, sint_ofInt (by omega) (by omega)]
    exact emod_modEq v

/-- So is their determinant to that of the integers. -/
theorem rawDet_keyWords_modEq (A : Mat2 Int) : rawDet (keyWords A) ≡ A.m00 * A.m11 - A.m01 * A.m10 [ZMOD 26] :=
  ((sint_hostKeyWord_modEq _).mul (sint_hostKeyWord_modEq _)).sub
    ((sint_hostKeyWord_modEq _).mul (sint_hostKeyWord_modEq _))

/-- An integer prime to 26 has an inverse, by Bézout, and the search finds it (R81 (c)). -/
theorem exists_invsearch_of_gcd {d : Int} (h : Int.gcd d 26 = 1) : ∃ i, invsearch d = some i := by
  have hbezout : d * Int.gcdA d 26 + 26 * Int.gcdB d 26 = 1 := by rw [← Int.gcd_eq_gcd_ab, h]; rfl
  have hinv : emod (d * emod (Int.gcdA d 26)) = 1 := by
    rw [emod_congr ((emod_modEq _).mul_left d), emod_eq]
    omega
  have hpos : emod (Int.gcdA d 26) ≠ 0 := fun hz => by rw [hz, mul_zero] at hinv; exact absurd hinv (by decide)
  have h0 := emod_nonneg (Int.gcdA d 26)
  have h1 := emod_lt (Int.gcdA d 26)
  exact ⟨_, invsearch_eq_some (by omega) (by omega) hinv⟩

/-- A key of integers prime to 26 in its determinant: the search on its words finds an inverse of theirs. -/
theorem exists_inverse_of_keyWords {A : Mat2 Int} (h : Int.gcd (A.m00 * A.m11 - A.m01 * A.m10) 26 = 1) :
    ∃ i, invsearch (detf (keyWords A)) = some i ∧ emod (rawDet (keyWords A) * i) = 1 := by
  have hdet := rawDet_keyWords_modEq A
  obtain ⟨i, hi⟩ := exists_invsearch_of_gcd h
  refine ⟨i, ?_, ?_⟩
  · rw [detf_eq, ← rawDet, emod_congr hdet, invsearch_emod, hi]
  · rw [emod_congr (hdet.mul_right i)]
    exact (invsearch_some hi).2.2

/-- A state into which the host has loaded a key. -/
def withKey (K : Mat2 Word) (s : State) : State :=
  { s with K := K, CVAL := false, DVAL := false, NVAL := false, MVAL := false, NI := false, response := some 0 }

/-- A key load, then the rest of the transactions. -/
theorem issueAll_keyLoad_append {A : Mat2 Int} {ts : List TransactionWord} {s u : State} {ws : List Word}
    (h : issueAll ts (withKey (keyWords A) s) = .next (u, ws)) :
    issueAll (keyLoad A ++ ts) s = .next (u, 0 :: 0 :: 0 :: 0 :: ws) :=
  issueAll_cons (issue_writeOf_K _ _ _ _) (issueAll_cons (issue_writeOf_K _ _ _ _)
    (issueAll_cons (issue_writeOf_K _ _ _ _) (issueAll_cons (issue_writeOf_K _ _ _ _) h)))

theorem issueAll_keyLoad (A : Mat2 Int) (s : State) :
    issueAll (keyLoad A) s = .next (withKey (keyWords A) s, [0, 0, 0, 0]) :=
  issueAll_keyLoad_append (issueAll_nil _)

/-- After a key load and an `INVK` that has set `MVAL`, the host reads the inverse matrix (R106). -/
theorem invertMacro_of_mval {A : Mat2 Int} {s t : State} {ws : List Word}
    (h : issueAll (keyLoad A ++ [encode .invk]) s = .next (t, ws)) (hm : t.MVAL = true) :
    invertMacro A s = .next (respond t.INV.m11 t, .ok t.INV) := by
  have hvalid : (statusWord t).getLsbD 3 = true := (statusWord_valid_bits t).2.trans hm
  rw [invertMacro, h]
  simp only [andThen_next, issue_readOf, regRead, hvalid, if_true]
  rfl

/-- `INVERT` of an invertible key leaves its inverse matrix for `DEC` (R106). -/
theorem invertMacro_of_invertible {A : Mat2 Int} {i : Int} (s : State) (hi : invsearch (detf (keyWords A)) = some i) :
    ∃ t B, invertMacro A s = .next (t, .ok B) ∧ Direction.decrypting.Uses (adjinv (keyWords A) i) t := by
  have hinvk : exec (decode (encode .invk)) (withKey (keyWords A) s) = .next (writeInverse (adjinv (keyWords A) i)
      (writeDinv i (writeDet (detf (keyWords A)) (withKey (keyWords A) s)))) := by
    rw [decode_encode rfl]
    exact (Effect.invkFound (s := withKey (keyWords A) s) hi).exec
  have hload := issueAll_keyLoad_append (issueAll_cons (issue_of_exec hinvk) (issueAll_nil _))
  exact ⟨_, _, invertMacro_of_mval hload rfl, rfl, (mapMat_uint_zext32_adjinv _ _).symm⟩

/-- Settles O50: each text command makes the product text of its matrix, and the second matrix undoes the first. -/
theorem decryptOfEncryptIsNormalize : Obligations.DecryptOfEncryptIsNormalize := by
  intro s plain A hgcd
  have hplain := pairText_normalizeText plain
  obtain ⟨i, hsearch, hi⟩ := exists_inverse_of_keyWords hgcd
  have hkey : Direction.encrypting.Uses (kr (keyWords A)) (withKey (keyWords A) s) := rfl
  obtain ⟨t, henc⟩ := hkey.processText hplain
  obtain ⟨u, B, hinvert, huses⟩ := invertMacro_of_invertible t hsearch
  obtain ⟨v, hdec⟩ := huses.processText (hplain.productText (kr (keyWords A)))
  refine ⟨t, v, productText (kr (keyWords A)) (normalizeText plain), ?_, ?_⟩
  · rw [encryptText, issueAll_keyLoad, andThen_next, henc]
  · rw [decryptText, hinvert, andThen_next, hdec, hplain.productText_adjinv hi]

end Sys2Proof.Machine

/-! # The arithmetic: residues and the reduced key (40_arithmetic.md R65 to R68) -/

namespace Sys2Proof.Machine

/-! ## The residue function (R65) -/

/-- The residue is the only integer in range that is congruent to `x`. -/
theorem eq_emod_of_modEq {x r : Int} (h0 : 0 ≤ r) (h1 : r < 26) (h : r ≡ x [ZMOD 26]) : r = emod x :=
  (emod_of_residue h0 h1).symm.trans (emod_congr h)

theorem emod_eq_sub_floor (x : Int) : emod x = x - 26 * x.fdiv 26 := by
  rw [emod_eq, Int.emod_def, Int.fdiv_eq_ediv_of_nonneg x (by decide)]

/-- The truncating remainder lies within 25 of 0 on either side, so that one 26 more makes it non-negative. -/
theorem emod_eq_corrected_tmod (x : Int) : emod x = (x.tmod 26 + 26).tmod 26 := by
  have hlow : -26 < x.tmod 26 := Int.lt_tmod_of_pos x (by decide)
  have hdiv : x.tmod 26 = x - 26 * x.tdiv 26 := Int.tmod_def x 26
  rw [emod_eq, Int.tmod_eq_emod_of_nonneg (by omega), hdiv]
  omega

/-- Settles O25: range and congruence fix the residue, and the two other forms compute it. -/
theorem emodIsTheUniqueResidue : Obligations.EmodIsTheUniqueResidue := by
  intro x
  have hrange : emod x ≤ 25 := Int.le_of_lt_add_one (emod_lt x)
  have hunique (r : Int) (h0 : 0 ≤ r) (h1 : r ≤ 25) (hdvd : 26 ∣ x - r) : r = emod x :=
    eq_emod_of_modEq h0 (Int.lt_add_one_of_le h1) (Int.modEq_iff_dvd.mpr hdvd)
  exact ⟨⟨emod_nonneg x, hrange, (emod_modEq x).dvd⟩, hunique, emod_eq_sub_floor x, emod_eq_corrected_tmod x⟩

/-! ## The key is read reduced by every command (R66, R68) -/

/-- Entries with equal residues make the same reduced key. -/
theorem kr_congr {K K' : Mat2 Word} (h : ∀ a b : Bool, (getEntry K' a b).toInt % 26 = (getEntry K a b).toInt % 26) :
    kr K' = kr K := by
  simp only [kr, mapMat, Mat2.mk.injEq]
  exact ⟨h false false, h false true, h true false, h true true⟩

theorem detf_congr {K K' : Mat2 Word} (h : kr K' = kr K) : detf K' = detf K := by
  rw [detf, detf, h]

theorem adjinv_congr {K K' : Mat2 Word} (h : kr K' = kr K) (q : Int) : adjinv K' q = adjinv K q := by
  rw [adjinv, adjinv, h]

/-- A host read of any register but a key entry does not show the key. -/
theorem regRead_with_key {a : Reg} (ha : ∀ i j, a ≠ .K i j) (s : State) (K' : Mat2 Word) :
    regRead a { s with K := K' } = regRead a s := by
  cases a with
  | K i j => exact absurd rfl (ha i j)
  | _ => rfl

/-- No exception depends on the key itself: each constructor's condition speaks of flags and of `V`. -/
theorem OnlyRaises.with_key {i : Instr} {s : State} {e : Exc} (h : OnlyRaises s i e) (K' : Mat2 Word) :
    OnlyRaises { s with K := K' } i e := by
  cases h <;> constructor <;> assumption

/-- With another key of the same reduced entries, the same outcome. -/
theorem Effect.with_key {i : Instr} {s t : State} {K' : Mat2 Word} (h : Effect s i t) (hK : kr K' = kr s.K)
    (hrd : ∀ a b, i ≠ .rd (.K a b)) (hwr : ∀ a b w, i ≠ .wrK a b w) :
    Effect { s with K := K' } i { t with K := K' } := by
  have hdet := detf_congr hK
  cases h with
  | rd a =>
    have hsame := regRead_with_key (a := a) (fun i j ha => hrd i j (congrArg Instr.rd ha)) s K'
    rw [← hsame]
    exact .rd a
  | wrK i j w => exact absurd rfl (hwr i j w)
  | wrV j w => exact .wrV j w
  | nop => exact .nop
  | clr => exact .clr
  | enc hv =>
    rw [← hK]
    exact .enc hv
  | dec hm hv => exact .dec hm hv
  | det =>
    rw [← hdet]
    exact .det
  | invsFound hd hq => exact .invsFound hd hq
  | invsNone hd hq => exact .invsNone hd hq
  | minv hn =>
    rw [← adjinv_congr hK]
    exact .minv hn
  | invkFound hq =>
    rw [← hdet] at hq ⊢
    rw [← adjinv_congr hK]
    exact .invkFound hq
  | invkNone hq =>
    rw [← hdet] at hq ⊢
    exact .invkNone hq
  | onlyRaises hr => exact .onlyRaises (hr.with_key K')

/-- Settles O28: each outcome has its counterpart with the other key, since commands read only the reduced one. -/
theorem onlyTheReducedKeyMatters : Obligations.OnlyTheReducedKeyMatters :=
  fun _ _ _ _ hrd hwr hK h => ((exec_eq_next_iff.mp h).with_key (kr_congr hK) hrd hwr).exec

end Sys2Proof.Machine

/-! # The block encryption `ENC` (41_block_encrypt.md R73, R74) and a key without inverse (R105 to R107) -/

namespace Sys2Proof.Machine

/-- `ENC`'s output in terms of the stored words: the product with the raw signed entries, reduced last (R67, R68). -/
theorem writeOutput_mvmul_kr (s : State) : writeOutput (mvmul (kr s.K) (mapVec uint s.V)) s = { s with
    C := ⟨zext32 (emod (sint s.K.m00 * uint s.V.x0 + sint s.K.m01 * uint s.V.x1)),
          zext32 (emod (sint s.K.m10 * uint s.V.x0 + sint s.K.m11 * uint s.V.x1))⟩
    CVAL := true } := by
  rw [mvmul_kr]
  rfl

/-- Settles O19, by the two outcomes of `ENC`: the product for a pair in range, else the exception. -/
theorem encMultipliesByTheKey : Obligations.EncMultipliesByTheKey := by
  refine ⟨decode_encode_enc, fun s => ⟨fun h0 h1 => ?_, fun hout => ?_⟩⟩
  · have hv : inRange s.V = true := (inRange_iff s.V).mpr ⟨h0, h1⟩
    exact (Effect.enc hv).exec.trans (congrArg _ (writeOutput_mvmul_kr s))
  · have hv : inRange s.V = false := (inRange_eq_false_iff s.V).mpr hout
    exact (Effect.onlyRaises (.encRange hv)).exec

/-! ## `ENC` on pairs in range is injective exactly for an invertible key (R74 (e)) -/

/-- The key sends no pair of integers to 0 mod 26 but those that are 0 mod 26. -/
def TrivialKernel (K : Mat2 Word) : Prop :=
  ∀ x y : Int, 26 ∣ sint K.m00 * x + sint K.m01 * y → 26 ∣ sint K.m10 * x + sint K.m11 * y → 26 ∣ x ∧ 26 ∣ y

/-- With `26 = g·m` and `g` a divisor of the determinant, `m` times the adjugate is in the kernel; so `m` times the key is 0 mod 26,
and `(m, 0)` is in the kernel too. -/
theorem isUnit_of_trivialKernel {K : Mat2 Word} {g : Int} (h : TrivialKernel K) (hdet : g ∣ rawDet K) (h26 : g ∣ 26) :
    IsUnit g := by
  obtain ⟨m, hm⟩ := h26
  have hzero : 26 ∣ rawDet K * m := hm ▸ mul_dvd_mul_right hdet m
  have hcol0 : sint K.m00 * (sint K.m11 * m) + sint K.m01 * (sint K.m10 * -m) = rawDet K * m := by rw [rawDet]; ring
  have hcol1 : sint K.m10 * (sint K.m01 * -m) + sint K.m11 * (sint K.m00 * m) = rawDet K * m := by rw [rawDet]; ring
  obtain ⟨-, h10⟩ := h _ _ (hcol0 ▸ hzero) (Dvd.intro 0 (by ring))
  obtain ⟨-, h00⟩ := h _ _ (Dvd.intro 0 (by ring)) (hcol1 ▸ hzero)
  obtain ⟨⟨k, hk⟩, -⟩ := h m 0 (by simpa using h00) (by simpa using h10)
  have hne : m ≠ 0 := by rintro rfl; omega
  refine IsUnit.of_mul_eq_one k (mul_left_cancel₀ hne ?_)
  calc m * (g * k) = g * m * k := by ring
    _ = m * 1 := by rw [← hm, ← hk, mul_one]

theorem invertible_of_trivialKernel {K : Mat2 Word} (h : TrivialKernel K) : Invertible K :=
  have hunit := isUnit_of_trivialKernel h (Int.gcd_dvd_left ..) (Int.gcd_dvd_right ..)
  Nat.isUnit_iff.mp (Int.ofNat_isUnit.mp hunit)

/-- An inverse of the key recovers the pair from its product. -/
theorem eq_of_productWords_kr_eq {K : Mat2 Word} {v w : Vec2 Word} (h : Invertible K) (hv : inRange v = true)
    (hw : inRange w = true) (heq : productWords (kr K) v = productWords (kr K) w) : v = w := by
  obtain ⟨q, hsearch⟩ := exists_invsearch_of_gcd h
  obtain ⟨-, -, hq⟩ := invsearch_some hsearch
  rw [← productWords_adjinv hq hv, heq, productWords_adjinv hq hw]

/-- A pair of integers as a pair of words in range. -/
def residueWords (x y : Int) : Vec2 Word := ⟨zext32 (emod x), zext32 (emod y)⟩

theorem inRange_residueWords (x y : Int) : inRange (residueWords x y) = true := by
  simp [inRange, isres, residueWords, emod_lt]

/-- The product may be taken before the reduction. -/
theorem productWords_residueWords (K : Mat2 Word) (x y : Int) : productWords (kr K) (residueWords x y) =
    residueWords (sint K.m00 * x + sint K.m01 * y) (sint K.m10 * x + sint K.m11 * y) := by
  have row (a b : Int) : emod (a * emod x + b * emod y) = emod (a * x + b * y) :=
    emod_congr (((emod_modEq x).mul_left a).add ((emod_modEq y).mul_left b))
  rw [productWords, mvmul_kr]
  simp [residueWords, mapVec, row]

theorem zext32_emod_eq_zero_iff {x : Int} : zext32 (emod x) = 0 ↔ 26 ∣ x := by
  rw [Int.dvd_iff_emod_eq_zero, ← emod_eq]
  exact ⟨fun h => (uint_zext32_emod x).symm.trans (congrArg uint h), congrArg zext32⟩

theorem residueWords_eq_zero_iff {x y : Int} : residueWords x y = ⟨0, 0⟩ ↔ 26 ∣ x ∧ 26 ∣ y := by
  rw [residueWords, Vec2.mk.injEq, zext32_emod_eq_zero_iff, zext32_emod_eq_zero_iff]

theorem productWords_zero (M : Mat2 Int) : productWords M ⟨0, 0⟩ = ⟨0, 0⟩ := by
  simp [productWords, mvmul, mapVec, uint, emod, zext32]

/-- Injectivity at the zero pair. -/
theorem trivialKernel_of_productWords_injective {K : Mat2 Word}
    (h : ∀ v w, inRange v = true → inRange w = true → productWords (kr K) v = productWords (kr K) w → v = w) :
    TrivialKernel K := by
  intro x y h0 h1
  refine residueWords_eq_zero_iff.mp (h _ _ (inRange_residueWords x y) rfl ?_)
  rw [productWords_residueWords, productWords_zero]
  exact residueWords_eq_zero_iff.mpr ⟨h0, h1⟩

/-- `ENC` on a given pair in range writes its product with the key. -/
theorem exec_enc_input {v : Vec2 Word} (hv : inRange v = true) (s : State) :
    exec .enc { s with V := v } = .next { s with V := v, C := productWords (kr s.K) v, CVAL := true } :=
  (Effect.enc (s := { s with V := v }) hv).exec

/-- Settles O40: an inverse of the key recovers the pair, and a key that is injective on the pairs has a trivial kernel. -/
theorem encIsInjectiveExactlyOnInvertibleKeys : Obligations.EncIsInjectiveExactlyOnInvertibleKeys := by
  intro s
  constructor
  · intro hinv v w t u hv0 hv1 hw0 hw1 ht hu hC
    have hv : inRange v = true := (inRange_iff v).mpr ⟨hv0, hv1⟩
    have hw : inRange w = true := (inRange_iff w).mpr ⟨hw0, hw1⟩
    obtain rfl := Host.Outcome.next.inj ((exec_enc_input hv s).symm.trans ht)
    obtain rfl := Host.Outcome.next.inj ((exec_enc_input hw s).symm.trans hu)
    exact eq_of_productWords_kr_eq hinv hv hw hC
  · intro h
    refine invertible_of_trivialKernel (trivialKernel_of_productWords_injective fun v w hv hw heq => ?_)
    obtain ⟨hv0, hv1⟩ := (inRange_iff v).mp hv
    obtain ⟨hw0, hw1⟩ := (inRange_iff w).mp hw
    exact h v w _ _ hv0 hv1 hw0 hw1 (exec_enc_input hv s) (exec_enc_input hw s) heq

/-! ## A key without inverse: `decrypt` reports it, `encrypt` does not ask (R73 (a), R105 to R107) -/

/-- What has an inverse mod 26 is prime to 26. -/
theorem gcd_eq_one_of_inverse {d q : Int} (h : emod (d * q) = 1) : Int.gcd d 26 = 1 := by
  rw [emod_eq] at h
  have hdiv := Int.emod_add_mul_ediv (d * q) 26
  exact Int.isCoprime_iff_gcd_eq_one.mp ⟨q, -(d * q / 26), by linarith⟩

/-- So for an integer that is not, the search fails (R81 (c)). -/
theorem invsearch_eq_none_of_gcd {d : Int} (h : Int.gcd d 26 ≠ 1) : invsearch d = none :=
  invsearch_none.mpr fun _ _ hi => h (gcd_eq_one_of_inverse hi)

/-- The search on the words of a key of integers finds what it finds on the integers. -/
theorem invsearch_detf_keyWords (A : Mat2 Int) :
    invsearch (detf (keyWords A)) = invsearch (A.m00 * A.m11 - A.m01 * A.m10) := by
  rw [detf_eq, ← rawDet, emod_congr (rawDet_keyWords_modEq A), invsearch_emod]

/-- After a key load and an `INVK` that has not set `MVAL`, the host reports the error (R106). -/
theorem invertMacro_of_not_mval {A : Mat2 Int} {s t : State} {ws : List Word}
    (h : issueAll (keyLoad A ++ [encode .invk]) s = .next (t, ws)) (hm : t.MVAL = false) :
    invertMacro A s = .next (respond (statusWord t) t, .error .notInvertible) := by
  have hinvalid : (statusWord t).getLsbD 3 = false := (statusWord_valid_bits t).2.trans hm
  rw [invertMacro, h]
  simp only [andThen_next, issue_readOf, regRead, hinvalid, Bool.false_eq_true, if_false]

/-- `INVERT` of a key without inverse reports it, with `NI` and `CAUSE` as the failed `INVK` leaves them (R85, R106). -/
theorem invertMacro_of_not_invertible {A : Mat2 Int} (s : State) (hnone : invsearch (detf (keyWords A)) = none) :
    ∃ t, invertMacro A s = .next (t, .error .notInvertible) ∧ t.NI = true ∧ t.CAUSE = 1 := by
  have hinvk : exec (decode (encode .invk)) (withKey (keyWords A) s) = .next (raise .notInvertible
      (markNotInvertible (writeDet (detf (keyWords A)) (withKey (keyWords A) s)))) := by
    rw [decode_encode rfl]
    exact (Effect.invkNone (s := withKey (keyWords A) s) hnone).exec
  have hload := issueAll_keyLoad_append (issueAll_cons (issue_of_exec hinvk) (issueAll_nil _))
  exact ⟨_, invertMacro_of_not_mval hload rfl, rfl, rfl⟩

/-- `encrypt` completes with the product text, whatever the key (R73 (a), R107). -/
theorem encryptText_completes (plain : List Char) (A : Mat2 Int) (s : State) :
    ∃ t, encryptText plain A s = .next (t, .ok (productText (kr (keyWords A)) (normalizeText plain))) := by
  have hkey : Direction.encrypting.Uses (kr (keyWords A)) (withKey (keyWords A) s) := rfl
  obtain ⟨t, henc⟩ := hkey.processText (pairText_normalizeText plain)
  exact ⟨t, by rw [encryptText, issueAll_keyLoad, andThen_next, henc]⟩

/-- The product text is as long as the text. -/
theorem PairText.length_productText (M : Mat2 Int) {t : List Char} (h : PairText t) :
    (Machine.productText M t).length = t.length := by
  induction h with
  | nil => rfl
  | cons _ _ _ ih => rw [Machine.productText, List.length_cons, List.length_cons, ih]; rfl

/-- Settles O51: the search on the key's determinant fails, so `INVERT` ends in the error; `ENC` has no prerequisite. -/
theorem decryptReportsNotInvertible : Obligations.DecryptReportsNotInvertible := by
  intro s text A hgcd
  constructor
  · have hnone : invsearch (detf (keyWords A)) = none :=
      (invsearch_detf_keyWords A).trans (invsearch_eq_none_of_gcd hgcd)
    obtain ⟨t, hinvert, hni, hcause⟩ := invertMacro_of_not_invertible s hnone
    exact ⟨t, by rw [decryptText, hinvert, andThen_next], hni, hcause⟩
  · obtain ⟨t, henc⟩ := encryptText_completes text A s
    exact ⟨t, _, henc, (pairText_normalizeText text).length_productText _⟩

end Sys2Proof.Machine

/-! # The determinant `DET` (42_determinant.md R75, R76) -/

namespace Sys2Proof.Machine

/-- `DET`'s output in terms of the stored words: the determinant of the raw signed entries, reduced last (R67, R68). -/
theorem writeDet_detf (s : State) : writeDet (detf s.K) s = { s with
    DET := zext32 (emod (sint s.K.m00 * sint s.K.m11 - sint s.K.m01 * sint s.K.m10))
    DVAL := true } := by
  rw [detf_eq]
  rfl

/-- Settles O20: `DET`'s one outcome writes the determinant of the reduced key, which is that of the raw entries. -/
theorem detComputesTheDeterminant : Obligations.DetComputesTheDeterminant :=
  ⟨decode_encode (i := .det) rfl, fun s => Effect.det.exec.trans (congrArg _ (writeDet_detf s))⟩

end Sys2Proof.Machine

/-! # The inverse search and its two users `INVS`, `INVK` (43_inverse_search.md R78 to R81, 44_inverse_matrix.md R85) -/

namespace Sys2Proof.Machine

/-- Settles O26, by running the search on the 26 residues. -/
theorem inverseSearchTable : Obligations.InverseSearchTable := by
  unfold Obligations.InverseSearchTable
  decide

/-! ## The search on every integer (R81) -/

/-- The search finds something exactly on the integers prime to 26 (R81 (c)). -/
theorem isSome_invsearch_iff {d : Int} : (invsearch d).isSome = true ↔ Int.gcd d 26 = 1 := by
  rw [Option.isSome_iff_exists]
  constructor
  · rintro ⟨q, hq⟩
    obtain ⟨-, -, hinv⟩ := invsearch_some hq
    exact gcd_eq_one_of_inverse hinv
  · exact exists_invsearch_of_gcd

/-- The search succeeds with `q` exactly when `q` is a candidate that inverts `d` (R78, R81 (a), (b)). -/
theorem invsearch_eq_some_iff {d q : Int} : invsearch d = some q ↔ 1 ≤ q ∧ q ≤ 25 ∧ emod (d * q) = 1 :=
  ⟨invsearch_some, fun ⟨h1, h2, h⟩ => invsearch_eq_some h1 h2 h⟩

/-- The inverse of an inverse is the residue itself (R81 (d)). -/
theorem invsearch_eq_some_emod_of_inverse {d q : Int} (h : emod (d * q) = 1) : invsearch q = some (emod d) := by
  have hinv : emod (q * emod d) = 1 := by
    rw [emod_congr ((emod_modEq d).mul_left q), mul_comm, h]
  have hpos : emod d ≠ 0 := fun hz => by rw [hz, mul_zero] at hinv; exact absurd hinv (by decide)
  have h0 := emod_nonneg d
  have h1 := emod_lt d
  exact invsearch_eq_some (by omega) (by omega) hinv

/-- Settles O27: the search is characterised by its candidates, and inversion mod 26 is symmetric. -/
theorem inverseSearchFindsExactlyTheUnits : Obligations.InverseSearchFindsExactlyTheUnits := by
  refine fun d => ⟨isSome_invsearch_iff, fun q => invsearch_eq_some_iff.trans ⟨?_, ?_⟩⟩
  · rintro ⟨h1, h2, hinv⟩
    exact ⟨h1, h2, hinv, invsearch_eq_some_emod_of_inverse hinv⟩
  · rintro ⟨h1, h2, hinv, -⟩
    exact ⟨h1, h2, hinv⟩

/-! ## `INVS` (R80) -/

/-- On a stored word and a natural candidate the test of the search is a test on naturals. -/
theorem emod_uint_mul_natCast (w : Word) (i : Nat) : emod (uint w * i) = (w.toNat * i % 26 : Nat) := by
  rw [emod_eq, uint]
  norm_cast

/-- The search on a stored word fails when no natural candidate inverts it. -/
theorem invsearch_uint_eq_none {w : Word} (h : ∀ i : Nat, 1 ≤ i → i ≤ 25 → w.toNat * i % 26 ≠ 1) :
    invsearch (uint w) = none := by
  refine invsearch_none.mpr fun i hi hinv => ?_
  obtain ⟨h1, h2⟩ := mem_candidates.mp hi
  lift i to Nat using by omega
  rw [emod_uint_mul_natCast] at hinv
  exact h i (by omega) (by omega) (by exact_mod_cast hinv)

/-- The search on a stored word finds the natural candidate that inverts it. -/
theorem invsearch_uint_eq_some {w : Word} {i : Nat} (h1 : 1 ≤ i) (h2 : i ≤ 25) (h : w.toNat * i % 26 = 1) :
    invsearch (uint w) = some (i : Int) :=
  invsearch_eq_some (by omega) (by omega) (by rw [emod_uint_mul_natCast, h, Nat.cast_one])

/-- `writeDinv` of a natural candidate stores its word. -/
theorem writeDinv_natCast (i : Nat) (s : State) :
    writeDinv i s = { s with DINV := BitVec.ofNat 32 i, NVAL := true, NI := false } := by
  rw [writeDinv, zext32_natCast]

/-- Settles O21, by the three outcomes of `INVS`: the missing prerequisite, the search's success and its failure. -/
theorem invsSearchesTheInverse : Obligations.InvsSearchesTheInverse := by
  refine ⟨decode_encode (i := .invs) rfl, fun s => ⟨fun hd => ?_, fun i hd h1 h2 hinv => ?_, fun hd hnone => ?_⟩⟩
  · exact (Effect.onlyRaises (.invsMissing hd)).exec
  · rw [← writeDinv_natCast]
    exact (Effect.invsFound hd (invsearch_uint_eq_some h1 h2 hinv)).exec
  · exact (Effect.invsNone hd (invsearch_uint_eq_none hnone)).exec

/-! ## `INVK` by the gcd of the determinant (R81 (c), R85) -/

/-- The search on the determinant of the reduced key finds what it finds on the raw determinant. -/
theorem invsearch_detf (K : Mat2 Word) : invsearch (detf K) = invsearch (rawDet K) := by
  rw [detf_eq, ← rawDet, invsearch_emod]

/-- Settles O36: by the gcd of the raw determinant the search succeeds or fails, and `INVK` has the outcome of each. -/
theorem invkFailsExactlyWithoutInverse : Obligations.InvkFailsExactlyWithoutInverse := by
  intro s
  by_cases hgcd : Int.gcd (rawDet s.K) 26 = 1
  · obtain ⟨q, hq⟩ := exists_invsearch_of_gcd hgcd
    have hinvk := (Effect.invkFound ((invsearch_detf s.K).trans hq)).exec
    exact ⟨_, hinvk, rfl, fun hne => absurd hgcd hne, fun _ => ⟨rfl, rfl, rfl, rfl⟩⟩
  · have hnone : invsearch (detf s.K) = none := (invsearch_detf s.K).trans (invsearch_eq_none_of_gcd hgcd)
    exact ⟨_, (Effect.invkNone hnone).exec, rfl, fun _ => ⟨rfl, rfl, rfl, rfl, rfl⟩, fun heq => absurd heq hgcd⟩

end Sys2Proof.Machine

/-! # The inverse matrix: `MINV`, `INVK` and their one result (44_inverse_matrix.md R82 to R86) -/

namespace Sys2Proof.Machine

/-! ## `MINV` (R82, R83) -/

/-- The inverse matrix in terms of the stored words: the adjugate of the raw signed entries, reduced last (R67, R68). -/
theorem writeInverse_adjinv (s : State) (q : Int) : writeInverse (adjinv s.K q) s = { s with
    INV := ⟨zext32 (emod (q * sint s.K.m11)), zext32 (emod (q * -sint s.K.m01)),
            zext32 (emod (q * -sint s.K.m10)), zext32 (emod (q * sint s.K.m00))⟩
    MVAL := true } := by
  rw [adjinv_eq]
  rfl

theorem missingInverse_of_ni {s : State} (h : s.NI = true) : missingInverse s = .notInvertible := if_pos h

theorem missingInverse_of_not_ni {s : State} (h : s.NI = false) : missingInverse s = .sequenceError :=
  if_neg (Bool.eq_false_iff.mp h)

/-- Settles O22, by the two outcomes of `MINV`, the missing prerequisite under either value of `NI`. -/
theorem minvBuildsTheInverseMatrix : Obligations.MinvBuildsTheInverseMatrix := by
  refine ⟨decode_encode (i := .minv) rfl, fun s => ⟨fun hn hni => ?_, fun hn hni => ?_, fun hn => ?_⟩⟩
  · have hraise := (Effect.onlyRaises (.minvMissing hn)).exec
    rwa [missingInverse_of_ni hni] at hraise
  · have hraise := (Effect.onlyRaises (.minvMissing hn)).exec
    rwa [missingInverse_of_not_ni hni] at hraise
  · exact (Effect.minv hn).exec.trans (congrArg _ (writeInverse_adjinv s _))

/-! ## `INVK` (R84, R85) -/

/-- The search fails when no natural candidate inverts the integer. -/
theorem invsearch_eq_none {d : Int} (h : ∀ i : Nat, 1 ≤ i → i ≤ 25 → d * i % 26 ≠ 1) : invsearch d = none := by
  refine invsearch_none.mpr fun i hi hinv => ?_
  obtain ⟨h1, h2⟩ := mem_candidates.mp hi
  lift i to Nat using by omega
  exact h i (by omega) (by omega) hinv

/-- Settles O23: the search on the raw determinant finds the given candidate or fails, and `INVK` has the outcome of each. -/
theorem invkInvertsTheKey : Obligations.InvkInvertsTheKey := by
  refine ⟨decode_encode (i := .invk) rfl, fun s => ⟨fun i h1 h2 hinv => ?_, fun hnone => ?_⟩⟩
  · have hq : invsearch (detf s.K) = some (i : Int) :=
      (invsearch_detf s.K).trans (invsearch_eq_some (by omega) (by omega) hinv)
    refine (Effect.invkFound hq).exec.trans (congrArg _ ?_)
    refine (writeInverse_adjinv (writeDinv i (writeDet (detf s.K) s)) i).trans ?_
    rw [writeDinv_natCast, writeDet_detf]
    rfl
  · have hq : invsearch (detf s.K) = none := (invsearch_detf s.K).trans (invsearch_eq_none hnone)
    refine (Effect.invkNone hq).exec.trans (congrArg _ ?_)
    rw [writeDet_detf]
    rfl

/-! ## The fused command and its three stages (R86) -/

/-- `INVS` after `DET` searches on the determinant of the key, whatever the state before (R76, R80). -/
theorem invsearch_writeDet_DET (s : State) : invsearch (uint (writeDet (detf s.K) s).DET) = invsearch (detf s.K) := by
  rw [writeDet_DET, uint_zext32_detf]

/-- Settles O35, by the outcome of the search: `MINV` reads the `DINV` just found, or meets the `NI` just set and records the same
cause again. -/
theorem invkEqualsDetInvsMinv : Obligations.InvkEqualsDetInvsMinv := by
  intro s
  match hq : invsearch (detf s.K) with
  | some q =>
    refine ⟨_, _, _, Effect.det.exec, (Effect.invsFound rfl ((invsearch_writeDet_DET s).trans hq)).exec,
      (Effect.minv rfl).exec, ?_⟩
    rw [writeDinv_DINV, uint_zext32_of_invsearch hq]
    exact (Effect.invkFound hq).exec
  | none =>
    exact ⟨_, _, _, Effect.det.exec, (Effect.invsNone rfl ((invsearch_writeDet_DET s).trans hq)).exec,
      (Effect.onlyRaises (.minvMissing rfl)).exec, (Effect.invkNone hq).exec⟩

/-! ## The inverse matrix is inverse on both sides (R84) -/

/-- The product of two matrices mod 26. -/
def mulMod (A B : Mat2 Int) : Mat2 Int :=
  ⟨emod (A.m00 * B.m00 + A.m01 * B.m10), emod (A.m00 * B.m01 + A.m01 * B.m11),
   emod (A.m10 * B.m00 + A.m11 * B.m10), emod (A.m10 * B.m01 + A.m11 * B.m11)⟩

/-- The left factor may be reduced before the product (R68). -/
theorem mulMod_emod_left (A B : Mat2 Int) : mulMod (mapMat emod A) B = mulMod A B := by
  have row (a b x y : Int) : emod (emod a * x + emod b * y) = emod (a * x + b * y) :=
    emod_congr (((emod_modEq a).mul_right x).add ((emod_modEq b).mul_right y))
  simp only [mulMod, mapMat, row]

/-- The right factor may be reduced before the product (R68). -/
theorem mulMod_emod_right (A B : Mat2 Int) : mulMod A (mapMat emod B) = mulMod A B := by
  have row (a b x y : Int) : emod (a * emod x + b * emod y) = emod (a * x + b * y) :=
    emod_congr (((emod_modEq x).mul_left a).add ((emod_modEq y).mul_left b))
  simp only [mulMod, mapMat, row]

/-- `q` times the adjugate of the signed key, before any reduction. -/
def rawAdj (K : Mat2 Word) (q : Int) : Mat2 Int :=
  ⟨q * sint K.m11, q * -sint K.m01, q * -sint K.m10, q * sint K.m00⟩

theorem adjinv_eq_rawAdj (K : Mat2 Word) (q : Int) : adjinv K q = mapMat emod (rawAdj K q) := adjinv_eq K q

/-- Adjugate times key: the determinant on the diagonal, 0 beside it. -/
theorem mulMod_adjinv_key (K : Mat2 Word) (q : Int) :
    mulMod (adjinv K q) (mapMat sint K) = mapMat emod ⟨rawDet K * q, 0, 0, rawDet K * q⟩ := by
  rw [adjinv_eq_rawAdj, mulMod_emod_left]
  apply (Mat2.mk.injEq ..).mpr
  refine ⟨congrArg emod ?_, congrArg emod ?_, congrArg emod ?_, congrArg emod ?_⟩ <;>
  · simp only [rawAdj, mapMat, rawDet]
    ring

/-- Key times adjugate: the same. -/
theorem mulMod_key_adjinv (K : Mat2 Word) (q : Int) :
    mulMod (mapMat sint K) (adjinv K q) = mapMat emod ⟨rawDet K * q, 0, 0, rawDet K * q⟩ := by
  rw [adjinv_eq_rawAdj, mulMod_emod_right]
  apply (Mat2.mk.injEq ..).mpr
  refine ⟨congrArg emod ?_, congrArg emod ?_, congrArg emod ?_, congrArg emod ?_⟩ <;>
  · simp only [rawAdj, mapMat, rawDet]
    ring

/-- With `q` an inverse of the determinant, the diagonal is 1. -/
theorem mapMat_emod_scalar {x : Int} (h : emod x = 1) : mapMat emod ⟨x, 0, 0, x⟩ = ⟨1, 0, 0, 1⟩ := by
  rw [mapMat, h]
  rfl

/-- `INV` after a successful `INVK`, read as integers (R85). -/
theorem exec_invk_INV {s : State} (h : Invertible s.K) : ∃ q t, emod (rawDet s.K * q) = 1 ∧ exec .invk s = .next t ∧
    mapMat uint t.INV = adjinv s.K q := by
  obtain ⟨q, hq⟩ := exists_invsearch_of_gcd h
  exact ⟨q, _, (invsearch_some hq).2.2, (Effect.invkFound ((invsearch_detf s.K).trans hq)).exec,
    mapMat_uint_zext32_adjinv s.K q⟩

/-- Settles O37: on either side of the key the adjugate gives the determinant, which its inverse makes 1. -/
theorem invkInverseIsTwoSided : Obligations.InvkInverseIsTwoSided := by
  intro s hinvertible
  obtain ⟨q, t, hq, ht, hINV⟩ := exec_invk_INV hinvertible
  have hleft := (mulMod_adjinv_key s.K q).trans (mapMat_emod_scalar hq)
  have hright := (mulMod_key_adjinv s.K q).trans (mapMat_emod_scalar hq)
  rw [← hINV] at hleft hright
  obtain ⟨l00, l01, l10, l11⟩ := Mat2.mk.inj hleft
  obtain ⟨r00, r01, r10, r11⟩ := Mat2.mk.inj hright
  exact ⟨t, ht, l00, l01, l10, l11, r00, r01, r10, r11⟩

end Sys2Proof.Machine

/-! # The block decryption `DEC` (45_block_decrypt.md R87) and the inverse matrix as a key (R89) -/

namespace Sys2Proof.Machine

/-! ## `DEC` (R87, R119) -/

/-- A row's product of stored words is one of naturals, since both operands of `DEC` are unsigned. -/
theorem zext32_emod_uint_mul_add (a b x y : Word) : zext32 (emod (uint a * uint x + uint b * uint y)) =
    BitVec.ofNat 32 ((a.toNat * x.toNat + b.toNat * y.toNat) % 26) := by
  rw [emod_eq, uint, uint, uint, uint, ← zext32_natCast]
  norm_cast

/-- `DEC`'s output in terms of the stored words. -/
theorem writeOutput_mvmul_INV (s : State) : writeOutput (mvmul (mapMat uint s.INV) (mapVec uint s.V)) s = { s with
    C := ⟨BitVec.ofNat 32 ((s.INV.m00.toNat * s.V.x0.toNat + s.INV.m01.toNat * s.V.x1.toNat) % 26),
          BitVec.ofNat 32 ((s.INV.m10.toNat * s.V.x0.toNat + s.INV.m11.toNat * s.V.x1.toNat) % 26)⟩
    CVAL := true } := by
  rw [← zext32_emod_uint_mul_add, ← zext32_emod_uint_mul_add]
  rfl

/-- Settles O24, by the outcomes of `DEC`: the missing prerequisite under either value of `NI`, then the range, then the product. -/
theorem decMultipliesByTheInverse : Obligations.DecMultipliesByTheInverse := by
  refine ⟨decode_encode_dec, fun s => ⟨fun hm hni => ?_, fun hm hni => ?_, fun hm hout => ?_, fun hm h0 h1 => ?_⟩⟩
  · have hraise := (Effect.onlyRaises (.decMissing hm)).exec
    rwa [missingInverse_of_ni hni] at hraise
  · have hraise := (Effect.onlyRaises (.decMissing hm)).exec
    rwa [missingInverse_of_not_ni hni] at hraise
  · have hv : inRange s.V = false := (inRange_eq_false_iff s.V).mpr hout
    exact (Effect.onlyRaises (.decRange hm hv)).exec
  · have hv : inRange s.V = true := (inRange_iff s.V).mpr ⟨h0, h1⟩
    exact (Effect.dec hm hv).exec.trans (congrArg _ (writeOutput_mvmul_INV s))

/-! ## The inverse matrix read as a key -/

/-- A residue reads the same as a key entry and as an entry of `INV` (R66, R71). -/
theorem reducedEntry_of_residue {w : Word} (h : uint w < 26) : reducedEntry w = uint w := by
  have hnat : w.toNat < 26 := Int.ofNat_lt.mp h
  have hsint : sint w = uint w := BitVec.toInt_eq_toNat_of_lt (by omega)
  rw [reducedEntry, hsint, emod_of_residue (uint_nonneg w) h]

/-- `INV` holds residues (R31 (I1)), so that as a key it is its own reduction. -/
theorem Inv.kr_INV {s : State} (h : Inv s) : kr s.INV = mapMat uint s.INV := by
  obtain ⟨-, -, h00, h01, h10, h11, -⟩ := h.resultsAreResidues
  rw [kr, mapMat, mapMat, reducedEntry_of_residue h00, reducedEntry_of_residue h01, reducedEntry_of_residue h10,
    reducedEntry_of_residue h11]

/-- Under `MVAL` its reduction is the inverse matrix of the key (R31 (I5)). -/
theorem Inv.kr_INV_eq_adjinv {s : State} (h : Inv s) (hm : s.MVAL = true) : kr s.INV = adjinv s.K (uint s.DINV) :=
  h.kr_INV.trans (h.mvalMeansInverseMatrix hm).2

/-! ## The inverse of the inverse (R89) -/

section
variable {K A : Mat2 Word} {q : Int}

/-- The entries of a key that reduces to the inverse matrix of `K`, as `q` times the adjugate before any reduction (R68). -/
theorem sint_modEq_of_kr_eq_adjinv (hA : kr A = adjinv K q) :
    sint A.m00 ≡ q * sint K.m11 [ZMOD 26] ∧ sint A.m01 ≡ q * -sint K.m01 [ZMOD 26] ∧
      sint A.m10 ≡ q * -sint K.m10 [ZMOD 26] ∧ sint A.m11 ≡ q * sint K.m00 [ZMOD 26] :=
  Mat2.mk.inj (hA.trans (adjinv_eq K q))

/-- The determinant of the inverse is the inverse of the determinant: `q²·det = q`. -/
theorem rawDet_modEq_of_kr_eq_adjinv (hA : kr A = adjinv K q) (hq : emod (rawDet K * q) = 1) : rawDet A ≡ q [ZMOD 26] := by
  obtain ⟨h00, h01, h10, h11⟩ := sint_modEq_of_kr_eq_adjinv hA
  have hone : rawDet K * q ≡ 1 [ZMOD 26] := hq
  calc rawDet A ≡ q * sint K.m11 * (q * sint K.m00) - q * -sint K.m01 * (q * -sint K.m10) [ZMOD 26] :=
        (h00.mul h11).sub (h01.mul h10)
    _ = rawDet K * q * q := by rw [rawDet]; ring
    _ ≡ 1 * q [ZMOD 26] := hone.mul_right q
    _ = q := one_mul q

/-- So the search on it finds the determinant of the key (R81 (d)). -/
theorem invsearch_detf_of_kr_eq_adjinv (hA : kr A = adjinv K q) (hq : emod (rawDet K * q) = 1) :
    invsearch (detf A) = some (emod (rawDet K)) := by
  rw [invsearch_detf, ← invsearch_emod, emod_congr (rawDet_modEq_of_kr_eq_adjinv hA hq), invsearch_emod]
  exact invsearch_eq_some_emod_of_inverse hq

/-- The adjugate of the adjugate is the key, and the two factors `det` and `q` cancel. -/
theorem adjinv_of_kr_eq_adjinv (hA : kr A = adjinv K q) (hq : emod (rawDet K * q) = 1) :
    adjinv A (emod (rawDet K)) = kr K := by
  have hone : rawDet K * q ≡ 1 [ZMOD 26] := hq
  have cancel {a x : Int} (ha : a ≡ q * x [ZMOD 26]) : emod (emod (rawDet K) * a) = emod x := by
    rw [emod_congr ((emod_modEq _).mul ha), ← mul_assoc, emod_congr (hone.mul_right x), one_mul]
  have cancelNeg {a x : Int} (ha : a ≡ q * -x [ZMOD 26]) : emod (emod (rawDet K) * -a) = emod x :=
    cancel (by simpa using ha.neg)
  obtain ⟨h00, h01, h10, h11⟩ := sint_modEq_of_kr_eq_adjinv hA
  rw [adjinv_eq, cancel h11, cancelNeg h01, cancelNeg h10, cancel h00]
  rfl

end

/-! ## The transactions: four key writes, then a command -/

/-- A key write, then the rest of the list. -/
theorem runs_writeOf_K {s t : State} {i j : Bool} {w : Word} {es : List Event}
    (h : Runs (clearFlags (writeKey i j w (accept es s))) es t) : Runs s (.transaction (writeOf (.K i j) w) :: es) t :=
  runs_transaction (by rw [decode_writeOf]; exact exec_wrK i j w _) h

/-- Four key writes and a transaction: its instruction acts on the state with the new key and no flag set (R91). -/
theorem runs_loadKey {s t : State} {A : Mat2 Word} {w : TransactionWord} (h : exec (decode w) (withKey A s) = .next t) :
    Runs s [.transaction (writeOf (.K false false) A.m00), .transaction (writeOf (.K false true) A.m01),
      .transaction (writeOf (.K true false) A.m10), .transaction (writeOf (.K true true) A.m11), .transaction w]
      { t with requests := [] } := by
  have hload : exec (decode w) { withKey A s with requests := [] } = .next { t with requests := [] } :=
    exec_with_requests [] h
  exact runs_writeOf_K (runs_writeOf_K (runs_writeOf_K (runs_writeOf_K (runs_transaction hload (runs_nil rfl)))))

/-- `ENC` with a freshly loaded key. -/
theorem exec_enc_withKey {s : State} (A : Mat2 Word) (hv : inRange s.V = true) : exec (decode (encode .enc)) (withKey A s) =
    .next (writeOutput (mvmul (kr A) (mapVec uint s.V)) (withKey A s)) := by
  rw [decode_encode_enc]
  exact (Effect.enc (s := withKey A s) hv).exec

/-- `INVK` with a freshly loaded key whose determinant the search inverts. -/
theorem exec_invk_withKey {A : Mat2 Word} {p : Int} (hp : invsearch (detf A) = some p) (s : State) :
    exec (decode (encode .invk)) (withKey A s) =
      .next (writeInverse (adjinv A p) (writeDinv p (writeDet (detf A) (withKey A s)))) := by
  rw [decode_encode rfl]
  exact (Effect.invkFound (s := withKey A s) hp).exec

/-- Settles O39: `ENC` with `INV` as its key multiplies by `DEC`'s matrix, and the inverse of the inverse is the reduced key. -/
theorem inverseLoadedAsKeyActsAsDec : Obligations.InverseLoadedAsKeyActsAsDec := by
  intro s h hm
  constructor
  · intro h0 h1
    have hv : inRange s.V = true := (inRange_iff s.V).mpr ⟨h0, h1⟩
    refine ⟨_, _, (Effect.dec hm hv).exec, rfl, runs_loadKey (exec_enc_withKey s.INV hv), rfl, rfl, ?_⟩
    rw [h.kr_INV, writeOutput_C, writeOutput_C]
  · have hA := h.kr_INV_eq_adjinv hm
    have hq := h.rawDet_mul_DINV hm
    refine ⟨_, runs_loadKey (exec_invk_withKey (invsearch_detf_of_kr_eq_adjinv hA hq) s), rfl, ?_⟩
    rw [adjinv_of_kr_eq_adjinv hA hq]
    rfl

end Sys2Proof.Machine

/-! # Register access and control (46_register_access_and_control.md) -/

namespace Sys2Proof.Machine

/-- The result registers hold residues, valid or not (R90's corner case (c), from R31 (I1) and (I2)). -/
theorem Inv.regRead_result_lt {s : State} {a : Reg} (h : Inv s)
    (ha : (∃ j, a = .C j) ∨ (∃ i j, a = .INV i j) ∨ a = .DET ∨ a = .DINV) : (regRead a s).toNat < 26 := by
  have hlt : uint (regRead a s) < 26 := by
    obtain ⟨hc0, hc1, h00, h01, h10, h11, hdet⟩ := h.resultsAreResidues
    obtain ⟨j, rfl⟩ | ⟨i, j, rfl⟩ | rfl | rfl := ha
    · match j with
      | false => exact hc0
      | true => exact hc1
    · match i, j with
      | false, false => exact h00
      | false, true => exact h01
      | true, false => exact h10
      | true, true => exact h11
    · exact hdet
    · exact Int.lt_of_le_sub_one (dinvValues_bounds _ h.dinvIsZeroOrUnit).2
  exact Int.ofNat_lt.mp hlt

/-- Settles O12: a read responds with `regRead`, whose cases are the registers, and the invariants bound the results. -/
theorem readReturnsTheStoredWord : Obligations.ReadReturnsTheStoredWord := by
  refine ⟨fun x a => decode_read a x, fun s a v h ha hx => ?_, fun s a => ⟨regRead a s, exec_rd a s, ?_⟩⟩
  · have hv : regRead a s = v := Option.some.inj (congrArg State.response (Host.Outcome.next.inj hx))
    rw [← hv]
    exact h.regRead_result_lt ha
  · cases a with
    | K i j | INV i j => cases i <;> cases j <;> rfl
    | V j | C j => cases j <;> rfl
    | STATUS => exact statusWord_toNat s
    | DET | DINV | CMD => rfl

/-- Settles O14, by the one entry that the write replaces and by the only writer of `K` among the outcomes. -/
theorem keyWriteStoresTheWordAndDropsTheFlags : Obligations.KeyWriteStoresTheWordAndDropsTheFlags := by
  refine ⟨fun i j w => decode_writeOf (.K i j) w, fun i j w s => ?_, fun x s t hx hK => ?_⟩
  · exact ⟨_, exec_wrK i j w s, getEntry_setEntry s.K i j w, fun _ _ hne => getEntry_setEntry_of_ne s.K w hne, rfl⟩
  · exact (exec_eq_next_iff.mp hx).K_eq_or.resolve_left hK

/-- Settles O15, by the one component that the write replaces. -/
theorem inputWriteStoresTheWordAndDropsCval : Obligations.InputWriteStoresTheWordAndDropsCval :=
  ⟨fun j w => decode_writeOf (.V j) w, fun j w s =>
    ⟨_, exec_wrV j w s, getComponent_setComponent s.V j w, getComponent_setComponent_not s.V j w, rfl⟩⟩

/-- A write to a register that takes no word is an illegal access, whatever the word (R93 to R96, R116). -/
theorem exec_decodeWrite_of_not_takesWord {r : Reg} (h : r.takesWord = false) (w : Word) (s : State) :
    exec (decodeWrite r w) s = .next (raise .illegalAccess s) := by
  cases r with
  | K i j | V j | CMD => cases h
  | C j => exact exec_wrC j s
  | INV i j => exact exec_wrI i j s
  | DET => exact exec_wrD false s
  | DINV => exact exec_wrD true s
  | STATUS => exact exec_wrStatus s

/-- Settles O16: the registers at the indices 6 to 14 are those that take no word. -/
theorem writesToReadOnlyRegistersRaiseIllegalAccess : Obligations.WritesToReadOnlyRegistersRaiseIllegalAccess := by
  refine ⟨fun i j s => ⟨exec_wrC j s, exec_wrI i j s, exec_wrD j s, exec_wrStatus s⟩, fun a w s rest h6 h14 hr => ?_⟩
  have hro : (regOfIndex a).takesWord = false := by
    rw [← Bool.not_eq_true, takesWord_regOfIndex]
    omega
  rw [step_transaction hr, decode_write]
  exact exec_decodeWrite_of_not_takesWord hro w _

/-- Settles O17, by decoding the word and by the equation of `NOP`. -/
theorem nopChangesNothing : Obligations.NopChangesNothing := ⟨by decide, exec_nop⟩

/-- Settles O18: what `CLR` zeroes is all that is not an operand or the port's. -/
theorem clrKeepsOnlyTheOperands : Obligations.ClrKeepsOnlyTheOperands := ⟨by decide, exec_clr⟩

end Sys2Proof.Machine

/-! # The host's texts: the letter mapping, `normalize` and the refused texts (47_host_sequences.md R99 to R109) -/

namespace Sys2Proof.Machine

/-! ## The letter mapping (R99) -/

/-- Settles O48: `letterOf` and `residueOf` undo each other on the capitals and on the residues. -/
theorem lettersAndResiduesCorrespond : Obligations.LettersAndResiduesCorrespond := by
  refine ⟨fun c hc => ?_, fun w hw => ⟨isCapital_letterOf hw, residueOf_letterOf hw⟩,
    rfl, rfl, rfl, rfl, rfl, rfl, rfl, rfl⟩
  obtain ⟨h0, h26⟩ := residueOf_bounds hc
  exact ⟨h0, Int.le_of_lt_add_one h26, letterOf_zext32_residueOf hc⟩

/-- The letters of the residues are exactly the capitals. -/
theorem exists_letterOf_eq_iff {c : Char} : (∃ w : Word, w.toNat < 26 ∧ letterOf w = c) ↔ isCapital c = true := by
  constructor
  · rintro ⟨w, hw, rfl⟩
    exact isCapital_letterOf hw
  · intro hc
    obtain ⟨h0, h26⟩ := residueOf_bounds hc
    have hcode : uint (zext32 (residueOf c)) = residueOf c := uint_zext32 h0 (by omega)
    exact ⟨zext32 (residueOf c), Int.ofNat_lt.mp (hcode.trans_lt h26), letterOf_zext32_residueOf hc⟩

theorem forall_letterOf_ne_iff {c : Char} : (∀ w : Word, w.toNat < 26 → letterOf w ≠ c) ↔ isCapital c = false := by
  rw [← Bool.not_eq_true, ← exists_letterOf_eq_iff]
  simp only [not_exists, not_and, ne_eq]

/-! ## `normalize` (R100 to R103) -/

/-- Upper-casing takes 32 from the code of a small letter (R101). -/
theorem toNat_capital_of_isSmall {c : Char} (h : isSmall c = true) : (capital c).toNat = c.toNat - 32 := by
  obtain ⟨-, h122⟩ := isSmall_iff.mp h
  rw [capital, if_pos h, toNat_charOfNat (by omega)]

theorem capital_of_not_isSmall {c : Char} (h : ¬ isSmall c = true) : capital c = c := if_neg h

/-- The codes of the capitals and of the small letters do not overlap. -/
theorem capital_of_isCapital {c : Char} (h : isCapital c = true) : capital c = c := by
  apply capital_of_not_isSmall
  rw [isCapital_iff] at h
  rw [isSmall_iff]
  omega

theorem padEven_of_even {t : List Char} (h : t.length % 2 = 0) : padEven t = t := if_neg (by omega)

theorem padEven_of_odd {t : List Char} (h : t.length % 2 = 1) : padEven t = t ++ ['X'] := if_pos h

/-- Capitals of even length pass each of the three stages unchanged. -/
theorem normalizeText_eq_self {t : List Char} (hcap : ∀ c ∈ t, isCapital c = true) (heven : t.length % 2 = 0) :
    normalizeText t = t := by
  have hfilter : lettersOnly t = t := List.filter_eq_self.mpr fun c hc => by rw [hcap c hc, Bool.true_or]
  have hmap : t.map capital = t :=
    (List.map_congr_left fun c hc => capital_of_isCapital (hcap c hc)).trans (List.map_id t)
  rw [normalizeText, hfilter, hmap, padEven_of_even heven]

/-- Filtering, said of the codes (R100). -/
theorem lettersOnly_eq_filter_codes (raw : List Char) : lettersOnly raw =
    raw.filter fun c => decide ((65 ≤ c.toNat ∧ c.toNat ≤ 90) ∨ (97 ≤ c.toNat ∧ c.toNat ≤ 122)) := by
  refine List.filter_congr fun c _ => ?_
  rw [Bool.eq_iff_iff, Bool.or_eq_true, isCapital_iff, isSmall_iff, decide_eq_true_iff]

/-- Settles O49: each stage of `normalize` leaves capitals of even length alone, and its result is such a text. -/
theorem normalizeIsIdempotentAndEven : Obligations.NormalizeIsIdempotentAndEven := by
  intro raw
  have hcap : ∀ c ∈ normalizeText raw, isCapital c = true := fun _ => isCapital_of_mem_normalizeText
  have heven : (normalizeText raw).length % 2 = 0 := length_padEven _
  have hlength : ((lettersOnly raw).map capital).length = (lettersOnly raw).length := List.length_map ..
  refine ⟨hcap, heven, normalizeText_eq_self hcap heven, fun h => padEven_of_even (hlength ▸ h),
    fun h => padEven_of_odd (hlength ▸ h), lettersOnly_eq_filter_codes raw, fun c => ⟨fun h => ?_, fun h => ?_⟩⟩
  · exact toNat_capital_of_isSmall (isSmall_iff.mpr h)
  · exact capital_of_not_isSmall (mt isSmall_iff.mp h)

/-! ## The refused texts (R109, U4, U5) -/

/-- A text is refused for some character that is no capital, when it has one (R109 (b)). -/
theorem textError_of_mem_of_not_capital {t : List Char} {c : Char} (hc : c ∈ t) (h : isCapital c = false) :
    ∃ b ∈ t, isCapital b = false ∧ textError t = some (.notALetter b) := by
  match hf : t.find? (fun a => !isCapital a) with
  | some b =>
    have hb : isCapital b = false := by simpa using List.find?_some hf
    exact ⟨b, List.mem_of_find?_eq_some hf, hb, by rw [textError, hf]⟩
  | none => simpa [h] using List.find?_eq_none.mp hf c hc

/-- Capitals of odd length are refused for the length (R109 (a)). -/
theorem textError_of_odd {t : List Char} (hcap : ∀ c ∈ t, isCapital c = true) (hodd : t.length % 2 = 1) :
    textError t = some .oddLength := by
  have hf : t.find? (fun a => !isCapital a) = none := List.find?_eq_none.mpr fun c hc => by simp [hcap c hc]
  rw [textError, hf]
  exact if_pos hodd

/-- A refused text ends in its error, without a transaction. -/
theorem processText_of_refused {t : List Char} {e : HostError} (d : Direction) (s : State) (h : textError t = some e) :
    processText d t s = .next (s, .error e) := by
  rw [processText, h]

/-- Settles O53: a character that is the letter of no residue is no capital, which the host looks for first, then the length. -/
theorem refusedTextsReachNoTransaction : Obligations.RefusedTextsReachNoTransaction := by
  intro d t s
  simp only [forall_letterOf_ne_iff, exists_letterOf_eq_iff]
  constructor
  · intro c hc hno
    obtain ⟨b, hb, hnb, herr⟩ := textError_of_mem_of_not_capital hc hno
    exact ⟨b, hb, hnb, processText_of_refused d s herr⟩
  · intro hcap hodd
    exact processText_of_refused d s (textError_of_odd hcap hodd)

end Sys2Proof.Machine

/-! # The recorded cause is read by nothing but `STATUS` (60_exceptions.md R122) -/

namespace Sys2Proof.Machine

/-- No register but `STATUS` shows `CAUSE`. -/
theorem regRead_with_cause {a : Reg} (ha : a ≠ .STATUS) (s : State) (c : BitVec 4) :
    regRead a { s with CAUSE := c } = regRead a s := by
  cases a with
  | STATUS => exact absurd rfl ha
  | _ => rfl

/-- With another `CAUSE`, the same outcome: it overwrites `CAUSE` alike or keeps it. -/
theorem Effect.with_cause {i : Instr} {s t : State} (h : Effect s i t) (c : BitVec 4) (hi : i ≠ .rd .STATUS) :
    ∃ c', Effect { s with CAUSE := c } i { t with CAUSE := c' } ∧ (c' = t.CAUSE ∨ (c' = c ∧ t.CAUSE = s.CAUSE)) := by
  cases h with
  | clr => exact ⟨0, .clr, .inl rfl⟩
  | invsNone hd hq => exact ⟨_, .invsNone hd hq, .inl rfl⟩
  | invkNone hq => exact ⟨_, .invkNone hq, .inl rfl⟩
  | onlyRaises hr => exact ⟨_, .onlyRaises (hr.with_cause c), .inl rfl⟩
  | rd a =>
    have hsame := regRead_with_cause (a := a) (by rintro rfl; exact hi rfl) s c
    exact ⟨c, hsame ▸ .rd a, .inr ⟨rfl, rfl⟩⟩
  | wrK i j w => exact ⟨c, .wrK i j w, .inr ⟨rfl, rfl⟩⟩
  | wrV j w => exact ⟨c, .wrV j w, .inr ⟨rfl, rfl⟩⟩
  | nop => exact ⟨c, .nop, .inr ⟨rfl, rfl⟩⟩
  | enc hv => exact ⟨c, .enc hv, .inr ⟨rfl, rfl⟩⟩
  | dec hm hv => exact ⟨c, .dec hm hv, .inr ⟨rfl, rfl⟩⟩
  | det => exact ⟨c, .det, .inr ⟨rfl, rfl⟩⟩
  | invsFound hd hq => exact ⟨c, .invsFound hd hq, .inr ⟨rfl, rfl⟩⟩
  | minv hn => exact ⟨c, .minv hn, .inr ⟨rfl, rfl⟩⟩
  | invkFound hq => exact ⟨c, .invkFound hq, .inr ⟨rfl, rfl⟩⟩

/-- Settles O32: each outcome has its counterpart with the other `CAUSE`. -/
theorem noRuleReadsCause : Obligations.NoRuleReadsCause := by
  intro i s t c hi h
  obtain ⟨c', heff, hc⟩ := (exec_eq_next_iff.mp h).with_cause c hi
  exact ⟨c', heff.exec, hc⟩

end Sys2Proof.Machine

/-! # Reset at clock edges (70_reset_and_hazards.md R126, R127) -/

namespace Sys2Proof.Machine

/-- The reset state, with the events that still wait (log 3). -/
def resetWith (r : List Event) : State := { State.reset with requests := r }

theorem eventAt_of_rst {i : PortIn} (h : i.rst = true) (c : Clocked) : eventAt i c = some .reset := if_pos h

/-- An edge with `rst` = 1 performs the reset event, in every phase (R126). -/
theorem edge_of_rst {i : PortIn} (h : i.rst = true) (c : Clocked) :
    edge i c = .next ⟨resetWith c.block.requests, .underReset⟩ := by
  rw [edge_of_event (eventAt_of_rst h c) (step_reset rfl), nextPhase, if_pos h]
  rfl

/-- The first edge with `rst` = 0 only opens the port (log 9). -/
theorem edge_underReset {i : PortIn} (h : i.rst = false) (b : State) : edge i ⟨b, .underReset⟩ = .next ⟨b, .idle⟩ := by
  rw [edge_of_none (by simp [eventAt, h])]
  simp [nextPhase, h]

/-- Without a request an idle port stays so. -/
theorem edge_idle {i : PortIn} (h : i.rst = false) (hv : i.reqValid = false) (b : State) :
    edge i ⟨b, .idle⟩ = .next ⟨b, .idle⟩ := by
  rw [edge_of_none (by simp [eventAt, h])]
  simp [nextPhase, h, acceptsAt, hv]

/-- Settles O44, by the equations of an edge with reset and of the first one without. -/
theorem resetEdgeGivesTheResetState : Obligations.ResetEdgeGivesTheResetState := by
  refine ⟨fun i c h => ⟨edge_of_rst h c, by simp [acceptsAt, h]⟩, fun _ => rfl, fun i ⟨b, phase⟩ h hp => ?_⟩
  obtain rfl : phase = .underReset := hp
  exact ⟨rfl, edge_underReset h b, rfl⟩

/-- A block that has been reset and has accepted nothing since. -/
inductive AfterReset (r : List Event) : Clocked → Prop
  | underReset : AfterReset r ⟨resetWith r, .underReset⟩
  | idle : AfterReset r ⟨resetWith r, .idle⟩

section
variable {r : List Event} {c : Clocked}

theorem AfterReset.block_eq (h : AfterReset r c) : c.block = resetWith r := by cases h <;> rfl

theorem AfterReset.no_response (h : AfterReset r c) : (portOut false c).rsp = none := by cases h <;> rfl

/-- While the host requests nothing, an edge is another reset or performs no event. -/
theorem AfterReset.edge {k : PortIn} (h : AfterReset r c) (hk : k.reqValid = false) :
    ∃ d, edge k c = .next d ∧ AfterReset r d ∧ ∀ e ∈ (eventAt k c).toList, e = .reset := by
  match hrst : k.rst with
  | true =>
    have hedge := edge_of_rst hrst c
    rw [h.block_eq] at hedge
    refine ⟨_, hedge, .underReset, ?_⟩
    simp [eventAt_of_rst hrst]
  | false =>
    cases h with
    | underReset => exact ⟨_, edge_underReset hrst _, .idle, by simp [eventAt, hrst]⟩
    | idle => exact ⟨_, edge_idle hrst hk _, .idle, by simp [eventAt, hrst]⟩

/-- So do all edges without a request. -/
theorem AfterReset.edges {ins : List PortIn} (h : AfterReset r c) (hins : ∀ k ∈ ins, k.reqValid = false) :
    ∃ d, edges ins c = .next d ∧ AfterReset r d ∧ ∀ e ∈ eventsOf ins c, e = .reset := by
  induction ins generalizing c with
  | nil => exact ⟨c, rfl, h, nofun⟩
  | cons k ins ih =>
    obtain ⟨hk, hrest⟩ := List.forall_mem_cons.mp hins
    obtain ⟨d, hedge, hd, hevent⟩ := h.edge hk
    obtain ⟨u, hedges, hu, hevents⟩ := ih hd hrest
    refine ⟨u, (edges_cons hedge).trans hedges, hu, ?_⟩
    rw [eventsOf_cons hedge]
    exact List.forall_mem_append.mpr ⟨hevent, hevents⟩

end

/-- Settles O46: whatever the phase, the edge with reset leaves a reset block, which the edges without a request keep. -/
theorem resetAbandonsTheTransactionInFlight : Obligations.ResetAbandonsTheTransactionInFlight := by
  intro c t n i ins _ hrst hins
  have hedge := edge_of_rst hrst c
  obtain ⟨d, hedges, hd, hevents⟩ := (AfterReset.underReset (r := c.block.requests)).edges hins
  refine ⟨by rw [hrst]; rfl, ?_, d, (edges_cons hedge).trans hedges, hd.block_eq, hd.no_response⟩
  rw [eventsOf_cons hedge, eventAt_of_rst hrst]
  exact List.forall_mem_cons.mpr ⟨rfl, hevents⟩

end Sys2Proof.Machine
